-- ==== Sys2Proof/Word.lean ====
section
/-! DEFINITION. The words of the block and the operand types: bytes, 16-bit types, 32-bit field values, telegrams (00_scope R8, R11),
and the forms in which an operation is presented (30_encoding R90). -/

namespace Sys2Proof

/-- An unsigned 8-bit value (R8). -/
abbrev Byte := BitVec 8

/-- A 16-bit value: the logical message type (R11). -/
abbrev Half := BitVec 16

/-- A 32-bit value: what the field extractor returns (42_fields R181, R182). -/
abbrev Quad := BitVec 32

/-- The four operations of a telegram (R11). -/
inductive Operation where
  | read | readWithData | write | broadcast
  deriving DecidableEq, Repr

/-- The telegram value (R11), each field at the width of R11; the ids are held in a byte (log 17). -/
structure Telegram where
  operation : Operation
  sourceId : Byte
  destinationId : Byte
  typeId : Half
  offset : Byte
  data : List Byte
  deriving DecidableEq, Repr

/-- The context that issues a transmission (R30, R236). -/
inductive Ctx where
  | loop | ext
  deriving DecidableEq, Repr

/-- The two durations of the delay generator (R231). -/
inductive Delay where
  | byteGap | breakHold
  deriving DecidableEq, Repr

/-- The forms in which something is presented to the block: the levels of encoding of R90. -/
inductive Code where
  /-- Off the line: an operation by its index of R115, then operand bytes (log 2). -/
  | op (bytes : List Byte)
  /-- Line levels, one per bit time, first bit time first, high = true: a whole character or break (R91, R92). -/
  | line (levels : List Bool)
  /-- One bit time of the line, high = true; the receiver puts characters and breaks together (R35, R91, R92). -/
  | level (high : Bool)
  /-- A poll frame (R98). -/
  | poll (bytes : List Byte)
  /-- A telegram frame as received (R93 to R97). -/
  | frame (bytes : List Byte)
  /-- A telegram to be encoded: it selects an `ENC` row (R116). -/
  | telegram (t : Telegram)
  /-- The line presents the oldest echo of the block's own transmission (R75, R209). -/
  | echo
  deriving DecidableEq, Repr

/-- Which of the one or two copies of the block (R255). -/
inductive UnitId where
  | first | second
  deriving DecidableEq, Repr

end Sys2Proof
end

