-- ==== Sys2Proof/Config.lean ====
section
/-! DEFINITION. Constants the source fixes (00_scope R6), parameters it leaves open (R7), and the model's free values. -/

namespace Sys2Proof

/-- The open parameters of R7, as plain data. A parameter with a lower bound is held as its excess over
that bound, so every value of this type meets the constraints of R7. Durations are in ticks of an unnamed unit. -/
structure Params where
  /-- `CRC8_TABLE`, 256 bytes (R22, R132). -/
  crc8Table : Vector Byte 256
  /-- `CRC8_INIT` (R7, 40_crc R131): any byte. -/
  crc8Init : Byte
  /-- Ticks in one bit time, beyond one. -/
  bitTimeExtra : Nat
  /-- `T_QUIET` beyond one tick (`T_QUIET` > 0). -/
  quietExtra : Nat
  /-- `T_BYTE_GAP` >= 0. -/
  byteGap : Nat
  /-- `T_BREAK_HOLD` beyond one tick more than one character time. -/
  breakHoldExtra : Nat
  /-- `RX_BUF_CAP` beyond 34. -/
  rxBufExtra : Nat
  /-- `TX_MAX_LEN` beyond 1. -/
  txMaxExtra : Nat
  /-- `RING_CAP` beyond 1. -/
  ringExtra : Nat
  /-- `EVQ_CAP` beyond 1. -/
  evqExtra : Nat
  /-- `LINE_ECHO` (D25). -/
  lineEcho : Bool
  /-- `ADDRESS_MASK`, used only by the host (D24). -/
  addressMask : Byte
  /-- `N_INST` = 2 (D34): the second unit, for the forwarding segment, exists. -/
  forwarding : Bool
  deriving DecidableEq, Repr, Inhabited

namespace Params

/-- `RX_BUF_CAP` >= 34 (R7). -/
def rxBufCap (p : Params) : Nat := 34 + p.rxBufExtra
/-- `TX_MAX_LEN` >= 1 (R7). -/
def txMaxLen (p : Params) : Nat := 1 + p.txMaxExtra
/-- `RING_CAP` >= 1 (R7). -/
def ringCap (p : Params) : Nat := 1 + p.ringExtra
/-- `EVQ_CAP` >= 1 (R7). -/
def evqCap (p : Params) : Nat := 1 + p.evqExtra
/-- One bit time, 1/`BAUD` (R91), in ticks. -/
def bitTime (p : Params) : Nat := 1 + p.bitTimeExtra
/-- `T_CHAR`, ten bit times (R12, R315). -/
def charTime (p : Params) : Nat := 10 * p.bitTime
/-- `T_QUIET` > 0 (R7). -/
def tQuiet (p : Params) : Nat := 1 + p.quietExtra
/-- `T_BREAK_HOLD`, longer than one character time (R7). -/
def tBreakHold (p : Params) : Nat := p.charTime + 1 + p.breakHoldExtra
/-- `N_INST` (R7, R255). -/
def nInst (p : Params) : Nat := if p.forwarding then 2 else 1

end Params

/-- How long a delay lasts, in ticks (R231; no rule depends on it, R315). -/
def Delay.ticks (p : Params) : Delay → Nat
  | .byteGap => p.byteGap
  | .breakHold => p.tBreakHold

namespace Config

/-- `BAUD`, bit/s (R6). -/
def baud : Nat := 9600
/-- `DATA_BITS` (R6). -/
def dataBits : Nat := 8
/-- `STOP_BITS` (R6). -/
def stopBits : Nat := 1
/-- Bit times of one character: start, data, stop; no parity (R6, R91). -/
def charBits : Nat := 1 + dataBits + stopBits
/-- `ROLE_BIT` (R6). -/
def roleBit : Byte := 0x80
/-- `ID_MASK` (R6). -/
def idMask : Byte := 0x7F
/-- `EXT_MARKER` (R6). -/
def extMarker : Byte := 0xFF
/-- `EXT_TYPE_BIAS` (R6). -/
def extTypeBias : Nat := 256
/-- `EXT_MIN_LEN` (R6). -/
def extMinLen : Nat := 6
/-- `POLL_MIN_LEN` (R6). -/
def pollMinLen : Nat := 1
/-- `POLL_MAX_LEN` (R6). -/
def pollMaxLen : Nat := 2
/-- `MIN_TELEGRAM_LEN` (R6). DESIGN CHOICE: held at 7, R6's value and the default of D12 and 93 U21, which call it a
parameter a model may vary (C8; log 4). -/
def minTelegramLen : Nat := 7
/-- `LEGACY_DATA_MAX`, not enforced by the block (R6, R161). -/
def legacyDataMax : Nat := 27
/-- The default of `CRC8_INIT` (R7, D3, 93 U2). -/
def crc8Init : Byte := 0x00

/-- The open parameters. FREE: no body, nothing can be proved of their values (log 4). -/
opaque openParams : Params

/-- The parameters of the machine after reset: open, but for `CRC8_INIT` at its default (R39, log 4, log 7). -/
def params : Params := { openParams with crc8Init := crc8Init }

/-- Free values: `freeChoice u k` is the `k`-th outcome in unit `u` (0 first, 1 second, 2 the turn of the
block's own agents) of a behaviour the spec leaves open. No body (log 5). -/
opaque freeChoice : Nat → Nat → Nat

end Config

end Sys2Proof
end

