-- ==== Sys2Proof/Syntax.lean ====
section
/-! DEFINITION. The operations of the block, one constructor per row of spec/opcode_table.json (30_encoding R115, R116). -/

namespace Sys2Proof

/-- The operations: the rows of the opcode table, in the table's order (R115, R116). -/
inductive Instr where
  | crc8Clr
  | crc8Upd (b : Byte)
  | crc8Rd
  | crc8Blk (buf : List Byte)
  | crc8Chk (raw : List Byte) (len : Nat)
  | decode (raw : List Byte) (len : Nat)
  | encode (t : Telegram)
  | classify (len : Nat)
  | fxLocate (t : Telegram) (pos w : Nat)
  | fxU (t : Telegram) (pos w : Nat)
  | fxS (t : Telegram) (pos w : Nat)
  | fxS24 (t : Telegram) (pos : Nat)
  | fxBit (t : Telegram) (pos bit : Nat)
  | lineChar (b : Byte)
  | lineBreak
  | rxWait
  | rxEvData (n : Nat)
  | rxEvBreak
  | rxEvRingovf
  | rxEvQfull
  | rxEvTimeout
  | rxDeliver (frame : List Byte)
  | cbReturn
  | txStart (bytes : List Byte) (ctx : Ctx)
  | txByte
  | txGap
  | txBrkAssert
  | txBrkRelease
  | txSendbreak (ctx : Ctx)
  | dlyStart (d : Delay)
  | dlyExpire
  | cfgLine
  | cbRegister (f : Nat)
  | rxFlush
  | resync (ctx : Ctx)
  | listenStart
  | reset
  /-- A whole character in format `CH` (R91), with its data byte. -/
  | ch (b : Byte)
  /-- A low period of so many bit times, in format `BRK` when more than ten (R92). -/
  | brk (lowBits : Nat)
  | poll1 (b : Byte)
  | poll2 (b0 b1 : Byte)
  /-- A received frame that selects the row (R116, R117). -/
  | decXrd (raw : List Byte)
  | decXwr (raw : List Byte)
  | decLeg (raw : List Byte)
  | decTooshort (raw : List Byte)
  /-- A telegram to be encoded that selects the row (R116). -/
  | encLegRd (t : Telegram)
  | encLegWr (t : Telegram)
  | encXRd (t : Telegram)
  | encXWr (t : Telegram)
  deriving DecidableEq, Repr

end Sys2Proof
end

