-- ==== Sys2Proof/Decode.lean ====
section
/-! DEFINITION. Decoding what is presented to the block into an operation, rejecting by name, and the encoder.
The wire formats follow 30_encoding R91 to R99 and R117; the operand bytes of a request are the model's (log 2). -/

namespace Sys2Proof

/-- Why something presented to the block is no operation. -/
inductive Reject where
  /-- A request with no byte. -/
  | empty
  /-- An index that R115 does not list. -/
  | reservedIndex (index : Byte)
  /-- The request ends before its operands do. -/
  | truncated
  /-- An operand byte that names no operation, context or delay. -/
  | badOperand
  /-- Bytes other than zero padding after the operands. -/
  | trailing
  /-- Line levels that are neither a character nor a break (R91, R92). -/
  | badLevels
  /-- A frame that is not of one or two bytes given as a poll (R98). -/
  | badPoll
  /-- A form that is no whole operation: one bit time, or the echo. -/
  | notWhole
  deriving DecidableEq, Repr

/-! ## Selection of the rows -/

/-- Byte `i` of a frame; 0 beyond its end (never asked for there by a rule). -/
def byteAt (raw : List Byte) (i : Nat) : Byte := raw.getD i 0

/-- `raw[a..b)` (R9). -/
def slice (raw : List Byte) (a b : Nat) : List Byte := (raw.take b).drop a

/-- The marker counts only in a frame of `EXT_MIN_LEN` bytes or more (R99, R112). -/
def isExtended (raw : List Byte) : Bool :=
  decide (Config.extMinLen ≤ raw.length) && (byteAt raw 2 == Config.extMarker)

/-- The read flag, bit 7 of byte 1 (R93). -/
def readFlag (raw : List Byte) : Bool := (byteAt raw 1).getLsbD 7

/-- R117 row 1. -/
def selectsXrd (raw : List Byte) : Bool := isExtended raw && readFlag raw

/-- R117 row 2. -/
def selectsXwr (raw : List Byte) : Bool := isExtended raw && !readFlag raw

/-- R117 row 3. -/
def selectsLeg (raw : List Byte) : Bool := !isExtended raw && decide (5 ≤ raw.length)

/-- R117 row 4. -/
def selectsTooshort (raw : List Byte) : Bool := decide (raw.length < 5)

/-- `Read` or `ReadWithData` (R154). -/
def Telegram.isRead (t : Telegram) : Bool :=
  match t.operation with
  | .read | .readWithData => true
  | .write | .broadcast => false

/-- `typeId > 0xFF`: the extended dialect (R154). -/
def Telegram.isExt (t : Telegram) : Bool := decide (0xFF < t.typeId.toNat)

/-- A received frame as the operation of the row it selects; rows tried in order, first match wins (R116, R117). -/
def decodeFrameRow (raw : List Byte) : Instr :=
  if selectsXrd raw then .decXrd raw
  else if selectsXwr raw then .decXwr raw
  else if selectsLeg raw then .decLeg raw
  else .decTooshort raw

/-- A telegram to be encoded as the operation of the row it selects (R116, R154). -/
def decodeTelegramRow (t : Telegram) : Instr :=
  match t.isExt, t.isRead with
  | true, true => .encXRd t
  | true, false => .encXWr t
  | false, true => .encLegRd t
  | false, false => .encLegWr t

/-! ## Characters and breaks -/

/-- The data byte of eight levels, least significant bit first (R63, R91). -/
def byteOfBits : List Bool → Byte
  | [] => 0
  | b :: bs => (if b then 1 else 0) ||| (byteOfBits bs <<< 1)

/-- The eight data levels of a byte, least significant bit first (R91). -/
def bitsOfByte (b : Byte) : List Bool := (List.range 8).map b.getLsbD

/-- Format `CH`: low start bit, data, high stop bit (R91). -/
def charLevels (b : Byte) : List Bool := false :: (bitsOfByte b ++ [true])

/-- A whole character or break from its levels (R91, R92). -/
def decodeLevels (levels : List Bool) : Except Reject Instr :=
  if levels.length = Config.charBits ∧ levels.head? = some false ∧ levels.getLast? = some true then
    .ok (.ch (byteOfBits ((levels.drop 1).take Config.dataBits)))
  else if Config.charBits < levels.length ∧ levels.all (· == false) then .ok (.brk levels.length)
  else .error .badLevels

/-! ## Operand bytes of a request (log 2) -/

/-- What a reader of operand bytes answers: the operand and the bytes after it. -/
abbrev Got (α : Type) := Except Reject (α × List Byte)

/-- Go on with the operand and the bytes after it, unless reading it failed. -/
def chain {α β : Type} (g : Got α) (f : α → List Byte → Except Reject β) : Except Reject β :=
  match g with
  | .error e => .error e
  | .ok (a, r) => f a r

/-- One byte. -/
def getByte : List Byte → Got Byte
  | [] => .error .truncated
  | b :: r => .ok (b, r)

/-- A number in four bytes, most significant first. -/
def getNat : List Byte → Got Nat
  | b3 :: b2 :: b1 :: b0 :: r =>
    .ok (b3.toNat * 16777216 + b2.toNat * 65536 + b1.toNat * 256 + b0.toNat, r)
  | _ => .error .truncated

/-- A byte sequence: its length, then its bytes. -/
def getBytes (bs : List Byte) : Got (List Byte) :=
  chain (getNat bs) fun n r =>
  if n ≤ r.length then .ok (r.take n, r.drop n) else .error .truncated

/-- The operation of a telegram: 0 to 3 in the order of R11. -/
def getOperation : List Byte → Got Operation
  | [] => .error .truncated
  | b :: r =>
    if b = 0 then .ok (.read, r)
    else if b = 1 then .ok (.readWithData, r)
    else if b = 2 then .ok (.write, r)
    else if b = 3 then .ok (.broadcast, r)
    else .error .badOperand

/-- The issuing context: 0 `LOOP`, 1 `EXT`. -/
def getCtx : List Byte → Got Ctx
  | [] => .error .truncated
  | b :: r => if b = 0 then .ok (.loop, r) else if b = 1 then .ok (.ext, r) else .error .badOperand

/-- The delay: 0 `T_BYTE_GAP`, 1 `T_BREAK_HOLD`. -/
def getDelay : List Byte → Got Delay
  | [] => .error .truncated
  | b :: r => if b = 0 then .ok (.byteGap, r) else if b = 1 then .ok (.breakHold, r) else .error .badOperand

/-- A 16-bit type, most significant byte first. -/
def getHalf : List Byte → Got Half
  | hi :: lo :: r => .ok (hi ++ lo, r)
  | _ => .error .truncated

/-- A telegram: operation, source, destination, type, offset, data. -/
def getTelegram (bs : List Byte) : Got Telegram :=
  chain (getOperation bs) fun op r =>
  chain (getByte r) fun src r =>
  chain (getByte r) fun dst r =>
  chain (getHalf r) fun ty r =>
  chain (getByte r) fun off r =>
  chain (getBytes r) fun data r =>
  .ok ({ operation := op, sourceId := src, destinationId := dst, typeId := ty, offset := off, data := data }, r)

/-- The operation of an index of R115 and the operand bytes after it. -/
def decodeOperands (index : Byte) (r : List Byte) : Got Instr :=
  match index.toNat with
  | 0x01 => .ok (.crc8Clr, r)
  | 0x02 => chain (getByte r) fun b r => .ok (.crc8Upd b, r)
  | 0x03 => .ok (.crc8Rd, r)
  | 0x04 => chain (getBytes r) fun buf r => .ok (.crc8Blk buf, r)
  | 0x05 => chain (getNat r) fun n r => chain (getBytes r) fun raw r => .ok (.crc8Chk raw n, r)
  | 0x10 => chain (getNat r) fun n r => chain (getBytes r) fun raw r => .ok (.decode raw n, r)
  | 0x11 => chain (getTelegram r) fun t r => .ok (.encode t, r)
  | 0x12 => chain (getNat r) fun n r => .ok (.classify n, r)
  | 0x20 =>
    chain (getNat r) fun pos r => chain (getNat r) fun w r => chain (getTelegram r) fun t r => .ok (.fxLocate t pos w, r)
  | 0x21 =>
    chain (getNat r) fun pos r => chain (getNat r) fun w r => chain (getTelegram r) fun t r => .ok (.fxU t pos w, r)
  | 0x22 =>
    chain (getNat r) fun pos r => chain (getNat r) fun w r => chain (getTelegram r) fun t r => .ok (.fxS t pos w, r)
  | 0x23 => chain (getNat r) fun pos r => chain (getTelegram r) fun t r => .ok (.fxS24 t pos, r)
  | 0x24 =>
    chain (getNat r) fun pos r => chain (getNat r) fun p r => chain (getTelegram r) fun t r => .ok (.fxBit t pos p, r)
  | 0x30 => chain (getByte r) fun b r => .ok (.lineChar b, r)
  | 0x31 => .ok (.lineBreak, r)
  | 0x32 => .ok (.rxWait, r)
  | 0x33 => chain (getNat r) fun n r => .ok (.rxEvData n, r)
  | 0x34 => .ok (.rxEvBreak, r)
  | 0x35 => .ok (.rxEvRingovf, r)
  | 0x36 => .ok (.rxEvQfull, r)
  | 0x37 => .ok (.rxEvTimeout, r)
  | 0x38 => chain (getBytes r) fun f r => .ok (.rxDeliver f, r)
  | 0x39 => .ok (.cbReturn, r)
  | 0x40 => chain (getCtx r) fun c r => chain (getBytes r) fun bs r => .ok (.txStart bs c, r)
  | 0x41 => .ok (.txByte, r)
  | 0x42 => .ok (.txGap, r)
  | 0x43 => .ok (.txBrkAssert, r)
  | 0x44 => .ok (.txBrkRelease, r)
  | 0x45 => chain (getCtx r) fun c r => .ok (.txSendbreak c, r)
  | 0x46 => chain (getDelay r) fun d r => .ok (.dlyStart d, r)
  | 0x47 => .ok (.dlyExpire, r)
  | 0x50 => .ok (.cfgLine, r)
  | 0x51 => chain (getNat r) fun f r => .ok (.cbRegister f, r)
  | 0x52 => .ok (.rxFlush, r)
  | 0x53 => chain (getCtx r) fun c r => .ok (.resync c, r)
  | 0x54 => .ok (.listenStart, r)
  | 0x55 => .ok (.reset, r)
  | _ => .error (.reservedIndex index)

/-- A request: index, operands, zero padding. -/
def decodeOp : List Byte → Except Reject Instr
  | [] => .error .empty
  | index :: bs =>
    chain (decodeOperands index bs) fun i r =>
    if r.all (· == 0) then .ok i else .error .trailing

/-- A poll frame (R98). -/
def decodePoll : List Byte → Except Reject Instr
  | [b] => .ok (.poll1 b)
  | [b0, b1] => .ok (.poll2 b0 b1)
  | _ => .error .badPoll

/-- The operation that something whole presented to the block is. -/
def decode : Code → Except Reject Instr
  | .op bytes => decodeOp bytes
  | .line levels => decodeLevels levels
  | .poll bytes => decodePoll bytes
  | .frame raw => .ok (decodeFrameRow raw)
  | .telegram t => .ok (decodeTelegramRow t)
  | .level _ => .error .notWhole
  | .echo => .error .notWhole

/-! ## The encoder -/

/-- A number below 2^32 in four bytes, most significant first. -/
def putNat (n : Nat) : List Byte :=
  [BitVec.ofNat 8 (n / 16777216), BitVec.ofNat 8 (n / 65536), BitVec.ofNat 8 (n / 256), BitVec.ofNat 8 n]

/-- A byte sequence: its length, then its bytes. -/
def putBytes (bs : List Byte) : List Byte := putNat bs.length ++ bs

/-- The code of a telegram's operation. -/
def operationByte : Operation → Byte
  | .read => 0
  | .readWithData => 1
  | .write => 2
  | .broadcast => 3

/-- The code of a context. -/
def ctxByte : Ctx → Byte
  | .loop => 0
  | .ext => 1

/-- The code of a delay. -/
def delayByte : Delay → Byte
  | .byteGap => 0
  | .breakHold => 1

/-- A telegram's operand bytes. -/
def putTelegram (t : Telegram) : List Byte :=
  [operationByte t.operation, t.sourceId, t.destinationId, BitVec.ofNat 8 (t.typeId.toNat / 256),
    BitVec.ofNat 8 t.typeId.toNat, t.offset] ++ putBytes t.data

/-- How an operation is presented (R115 for the operations, R91 to R98 for the wire formats). -/
def encode : Instr → Code
  | .crc8Clr => .op [0x01]
  | .crc8Upd b => .op [0x02, b]
  | .crc8Rd => .op [0x03]
  | .crc8Blk buf => .op (0x04 :: putBytes buf)
  | .crc8Chk raw n => .op (0x05 :: (putNat n ++ putBytes raw))
  | .decode raw n => .op (0x10 :: (putNat n ++ putBytes raw))
  | .encode t => .op (0x11 :: putTelegram t)
  | .classify n => .op (0x12 :: putNat n)
  | .fxLocate t pos w => .op (0x20 :: (putNat pos ++ (putNat w ++ putTelegram t)))
  | .fxU t pos w => .op (0x21 :: (putNat pos ++ (putNat w ++ putTelegram t)))
  | .fxS t pos w => .op (0x22 :: (putNat pos ++ (putNat w ++ putTelegram t)))
  | .fxS24 t pos => .op (0x23 :: (putNat pos ++ putTelegram t))
  | .fxBit t pos p => .op (0x24 :: (putNat pos ++ (putNat p ++ putTelegram t)))
  | .lineChar b => .op [0x30, b]
  | .lineBreak => .op [0x31]
  | .rxWait => .op [0x32]
  | .rxEvData n => .op (0x33 :: putNat n)
  | .rxEvBreak => .op [0x34]
  | .rxEvRingovf => .op [0x35]
  | .rxEvQfull => .op [0x36]
  | .rxEvTimeout => .op [0x37]
  | .rxDeliver frame => .op (0x38 :: putBytes frame)
  | .cbReturn => .op [0x39]
  | .txStart bytes ctx => .op (0x40 :: ctxByte ctx :: putBytes bytes)
  | .txByte => .op [0x41]
  | .txGap => .op [0x42]
  | .txBrkAssert => .op [0x43]
  | .txBrkRelease => .op [0x44]
  | .txSendbreak ctx => .op [0x45, ctxByte ctx]
  | .dlyStart d => .op [0x46, delayByte d]
  | .dlyExpire => .op [0x47]
  | .cfgLine => .op [0x50]
  | .cbRegister f => .op (0x51 :: putNat f)
  | .rxFlush => .op [0x52]
  | .resync ctx => .op [0x53, ctxByte ctx]
  | .listenStart => .op [0x54]
  | .reset => .op [0x55]
  | .ch b => .line (charLevels b)
  | .brk n => .line (List.replicate n false)
  | .poll1 b => .poll [b]
  | .poll2 b0 b1 => .poll [b0, b1]
  | .decXrd raw => .frame raw
  | .decXwr raw => .frame raw
  | .decLeg raw => .frame raw
  | .decTooshort raw => .frame raw
  | .encLegRd t => .telegram t
  | .encLegWr t => .telegram t
  | .encXRd t => .telegram t
  | .encXWr t => .telegram t

/-! ## The host's question: a word of the opcode table (log 3) -/

/-- The lowest `n` bits of `w`, most significant first, as line levels: the first bit time is the leftmost (R91). -/
def levelsOfWord : Nat → Nat → List Bool
  | 0, _ => []
  | n + 1, w => w.testBit n :: levelsOfWord n w

/-- What a word of `nbits` bits, numbered as the table numbers it, presents: 8 bits an index of R115 and operand
bytes of zeros; 10 or 11 bits line levels; 16 bits line levels unless the low byte is the marker; 24 bits the first
three bytes of a frame of eight, `raw[0]` the most significant (R116). -/
def tableCode (nbits w : Nat) : Code :=
  let raw : Code := .frame ([BitVec.ofNat 8 (w / 65536), BitVec.ofNat 8 (w / 256), BitVec.ofNat 8 w] ++ List.replicate 5 0)
  if nbits ≤ 8 then .op (BitVec.ofNat 8 w :: List.replicate 24 0)
  else if nbits = 10 then .line (levelsOfWord 10 w)
  else if nbits = 11 then .line (levelsOfWord 11 w)
  else if nbits = 16 then
    if w % 256 = 255 then raw
    else if w % 65536 = 0 then .line (levelsOfWord 11 w)
    else .line (levelsOfWord 10 w)
  else raw

/-- The operation the decoder reads from a word of the opcode table. -/
def decodeTableWord (nbits w : Nat) : Option Instr := (decode (tableCode nbits w)).toOption

end Sys2Proof
end

