-- ==== Sys2Proof/WellFormed.lean ====
section
/-! DEFINITION. Which operations are well formed: operands in the range their rule gives (60_exceptions R274), and small
enough for the operand bytes of a request (log 2). -/

namespace Sys2Proof

/-- A number that four operand bytes hold. -/
def fitsNat (n : Nat) : Bool := decide (n < 4294967296)

/-- A byte sequence whose length four operand bytes hold. -/
def fitsBytes (bs : List Byte) : Bool := fitsNat bs.length

/-- The operand ranges of the rules, and the limits of the request's operand bytes. -/
def Instr.wf : Instr → Bool
  | .crc8Blk buf => fitsBytes buf
  | .crc8Chk raw n => decide (1 ≤ n) && decide (n = raw.length) && fitsBytes raw
  | .decode raw n => decide (n = raw.length) && fitsBytes raw
  | .encode t => fitsBytes t.data
  | .classify n => fitsNat n
  | .fxLocate t pos w => decide (1 ≤ w) && fitsNat pos && fitsNat w && fitsBytes t.data
  | .fxU t pos w => decide (1 ≤ w) && decide (w ≤ 4) && fitsNat pos && fitsBytes t.data
  | .fxS t pos w => decide (1 ≤ w) && decide (w ≤ 4) && fitsNat pos && fitsBytes t.data
  | .fxS24 t pos => fitsNat pos && fitsBytes t.data
  | .fxBit t pos p => decide (p ≤ 7) && fitsNat pos && fitsBytes t.data
  | .rxEvData n => decide (1 ≤ n) && fitsNat n
  | .rxDeliver frame => fitsBytes frame
  | .txStart bytes _ => fitsBytes bytes
  | .cbRegister f => fitsNat f
  | .brk n => decide (Config.charBits < n)
  | .decXrd raw => selectsXrd raw
  | .decXwr raw => selectsXwr raw
  | .decLeg raw => selectsLeg raw
  | .decTooshort raw => selectsTooshort raw
  | .encLegRd t => !t.isExt && t.isRead
  | .encLegWr t => !t.isExt && !t.isRead
  | .encXRd t => t.isExt && t.isRead
  | .encXWr t => t.isExt && !t.isRead
  | .crc8Clr | .crc8Upd _ | .crc8Rd | .lineChar _ | .lineBreak | .rxWait | .rxEvBreak | .rxEvRingovf | .rxEvQfull
  | .rxEvTimeout | .cbReturn | .txByte | .txGap | .txBrkAssert | .txBrkRelease | .txSendbreak _ | .dlyStart _
  | .dlyExpire | .cfgLine | .rxFlush | .resync _ | .listenStart | .reset | .ch _ | .poll1 _ | .poll2 _ _ => true

end Sys2Proof
end

