-- ==== Sys2Proof/Machine/State.lean ====
section
/-! DEFINITION. The state of the block (10_state R20 to R39), why a step can stop, and the state after reset. -/

namespace Sys2Proof.Machine

/-- The writable byte arrays of 20_memory R60. -/
inductive Space where
  | rxbuf | txbuf
  deriving DecidableEq, Repr

/-- Why the machine stops with a fault. -/
inductive Fault where
  /-- Raised by TX.BYTE when `tx_idx` is no index of `TXBUF` (20_memory R60): no run reaches it. Safe. -/
  | noSuchAddress (space : Space) (addr : Nat)
  deriving DecidableEq, Repr

/-- Why an operation has no step from a state (60_exceptions R274). All are safe: the run is outside the model. -/
inductive Refusal where
  /-- Raised only by an arm of `exec` whose instruction has no meaning yet. Safe. -/
  | notModelled (mnemonic : String)
  /-- Raised by the fetch: what is presented is no operation. Safe. -/
  | undecodable (why : Reject)
  /-- Raised by every operation addressed to the second unit when `N_INST` = 1 (R255). Safe. -/
  | noSuchUnit
  /-- X9: raised by TX.START, TX.SENDBREAK, RESYNC, RX.EV.TIMEOUT while `tx_phase` is not IDLE (R234). Safe. -/
  | txBusy
  /-- Raised by CRC8.CHK, FX.LOCATE, FX.U, FX.S, FX.BIT, BRK for an operand outside its range (R274). Safe. -/
  | operandRange
  /-- Raised by DECODE and CRC8.CHK when the length operand is not the buffer's length (U8). Safe. -/
  | lengthMismatch
  /-- Raised by the DEC and ENC rows for a frame or telegram that does not select the row (R116). Safe. -/
  | rowNotSelected
  /-- Raised by RX.WAIT, the RX.EV steps and RX.DELIVER while the loop context can take no step: before LISTEN.START,
  during a callback, inside its own transmission (R199, R28, 44_tx_delay R236, 60_exceptions R279, R274). Safe. -/
  | loopNotFree
  /-- Raised by RX.EV.RINGOVF, RX.EV.QFULL when their condition is not set (R199 (a), (b)). Safe. -/
  | noCondition
  /-- Raised by RX.EV.TIMEOUT when an event or a condition is pending (R199 (d)). Safe. -/
  | notQuiet
  /-- Raised by the transmit steps and DLY.START outside their phase (R226 to R229, R231). Safe. -/
  | wrongPhase
  /-- Raised by TX.GAP, TX.BRK.RELEASE, DLY.START while the delay runs (R227, R229, R231). Safe. -/
  | delayRunning
  /-- Raised by DLY.EXPIRE while the delay generator is stopped (R232). Safe. -/
  | delayStopped
  /-- Raised by CB.RETURN outside a callback (R210). Safe. -/
  | notInCallback
  /-- Raised by CB.RETURN during the loop context's own transmission (R210). Safe. -/
  | heldByTransmission
  /-- Raised by the fetch when the line is to present an echo and none is in flight (R75). Safe. -/
  | noEcho
  deriving DecidableEq, Repr

/-- An entry of `evq` (R24). -/
inductive Event where
  | data (n : Nat)
  | brk
  deriving DecidableEq, Repr

/-- The transmit phase (R29). -/
inductive TxPhase where
  | idle | byte | gap | brkAssert | brkHold
  deriving DecidableEq, Repr

/-- The level the block drives (R32). -/
inductive Drive where
  | released
  | char (b : Byte)
  | space
  deriving DecidableEq, Repr

/-- The quiet timer (R28): time itself is not kept (log 8). -/
inductive QuietTimer where
  | stopped | waiting
  deriving DecidableEq, Repr

/-- What the line presents to a receiver: a character or a break (R90). -/
inductive LineEvent where
  | char (b : Byte)
  | brk
  deriving DecidableEq, Repr

/-- The class of a frame (41_codec R159). -/
inductive FrameClass where
  | poll | telegram | other
  deriving DecidableEq, Repr

/-- The warnings of X4 to X7 (R265). -/
inductive Warning where
  | frameTooLong (n : Nat)
  | ringOverflow
  | queueFull
  | quietTimeout
  deriving DecidableEq, Repr

/-- What an operation returns to its caller (R10). -/
inductive Result where
  | byte (b : Byte)
  | bool (v : Bool)
  | telegram (t : Telegram)
  | bytes (bs : List Byte)
  | frameClass (c : FrameClass)
  | index (k : Nat)
  | unsigned (v : Quad)
  | signed (v : Quad)
  /-- X1 (R266). -/
  | checksumError
  /-- X2 (R267). -/
  | tooShort
  /-- X8 (R273). -/
  | absent
  deriving DecidableEq, Repr

/-- What leaves the block (R10 `emit`, `return`): to the line, to the host, to the log. -/
inductive Output where
  /-- `LineOut.Char(b)` (R226). -/
  | lineChar (b : Byte)
  /-- `LineOut.Low` (R228). -/
  | lineLow
  /-- `LineOut.Release` (R229). -/
  | lineRelease
  /-- `Frame(bytes, L, class)` (R204). -/
  | frame (bytes : List Byte) (len : Nat) (cls : FrameClass)
  | warn (w : Warning)
  | ret (r : Result)
  deriving DecidableEq, Repr

/-- The failure causes that are reported, X1 to X8 (R265); X9 is a refusal. -/
inductive Cause where
  | checksumError | tooShort | txRefused
  | frameTooLong (n : Nat)
  | ringOverflow | queueFull | quietTimeout | absent
  deriving DecidableEq, Repr

/-- A byte array of R60: (address, byte) pairs, addresses strictly rising; an unlisted address holds no value
anybody knows (log 6). -/
abbrev Memory := List Host.Cell

/-- The line receiver's hidden state (R35 (a), (b)). -/
structure Hidden where
  /-- The data bits of the character in reception, first to last; none when no start bit has been seen. -/
  shift : Option (List Bool)
  /-- Bit times for which the line has been continuously low. -/
  lowTime : Nat
  deriving DecidableEq, Repr

/-- No character in reception, low-time counter 0 (R39). -/
def Hidden.idle : Hidden := { shift := none, lowTime := 0 }

/-- The state of one unit: the tuple of R20. The last five fields are the environment's and the model's own. -/
structure Block where
  crcAcc : Byte
  ring : List Byte
  evq : List Event
  condRing : Bool
  condQueue : Bool
  rxCount : Nat
  rxBuf : Memory
  quiet : QuietTimer
  listening : Bool
  inCallback : Bool
  cb : Option Nat
  txBuf : Memory
  txLen : Nat
  txIdx : Nat
  txPhase : TxPhase
  txCtx : Ctx
  dly : Option Delay
  txd : Drive
  hidden : Hidden
  /-- Sent and not yet presented back, oldest first (R35 (d), R75). -/
  echo : List LineEvent
  /-- Everything that left the block, oldest first (log 11). -/
  out : List Output
  /-- Outcomes supplied for the behaviours the spec leaves open, next first (log 5). -/
  choices : List Nat
  /-- How many free outcomes were used after the supplied ones (log 5). -/
  drawn : Nat
  /-- Which unit this is (log 15). -/
  id : UnitId
  deriving DecidableEq, Repr

/-- The power-on column of R39; the model's own fields as log 18 names them. -/
def Block.powerOn (p : Params) (id : UnitId) : Block :=
  { crcAcc := p.crc8Init
    ring := []
    evq := []
    condRing := false
    condQueue := false
    rxCount := 0
    rxBuf := []
    quiet := .stopped
    listening := false
    inCallback := false
    cb := none
    txBuf := []
    txLen := 0
    txIdx := 0
    txPhase := .idle
    txCtx := .ext
    dly := none
    txd := .released
    hidden := .idle
    echo := []
    out := []
    choices := []
    drawn := 0
    id := id }

/-- Something presented to a unit and not yet performed (log 1). -/
structure Entry where
  dest : UnitId
  code : Code
  deriving DecidableEq, Repr

/-- The machine: its parameters, its one or two units (R255), and what is to happen next. -/
structure State where
  /-- The open parameters, which no step changes (R34, log 4). -/
  params : Params
  first : Block
  /-- Present exactly when `N_INST` = 2 (R255). -/
  second : Option Block
  /-- The unit the operation in progress addresses. -/
  cur : UnitId
  /-- Operations issued and line events presented, next first (log 1). -/
  inbox : List Entry
  /-- Supplied choices of which of the block's own agents moves, next first (log 15). -/
  turns : List Nat
  /-- How many free such choices were used (log 15). -/
  turn : Nat
  deriving DecidableEq, Repr

/-- The machine right after power-on reset (R39, R301), with nothing issued. -/
def State.reset : State :=
  { params := Config.params
    first := Block.powerOn Config.params .first
    second := if Config.params.forwarding then some (Block.powerOn Config.params .second) else none
    cur := .first
    inbox := []
    turns := []
    turn := 0 }

end Sys2Proof.Machine
end

