-- ==== Sys2Proof/Machine/Flags.lean ====
section
/-! DEFINITION. The three flags, each a function of the state (10_state R33), and the conditions that enable the loop
context's and the transmitter's steps. -/

namespace Sys2Proof.Machine

namespace Block

/-- `tx_busy` (R33). -/
def txBusy (n : Block) : Bool := n.txPhase != .idle

/-- `rx_overlong` (R33). -/
def rxOverlong (p : Params) (n : Block) : Bool := decide (p.rxBufCap < n.rxCount)

/-- `cond_pending` (R33). -/
def condPending (n : Block) : Bool := n.condRing || n.condQueue

/-- The loop context is inside a transmission it started (43_rx_framer R199, R210, 44_tx_delay R236). -/
def loopHeld (n : Block) : Bool := (n.txCtx == .loop) && n.txBusy

/-- The loop context can take a step: `listening`, not in the callback, not held (R199, R28). -/
def loopFree (n : Block) : Bool := n.listening && !n.inCallback && !n.loopHeld

/-- The quiet timeout is possible: nothing queued, no condition pending (R199 (d)). -/
def nothingPending (n : Block) : Bool := n.evq.isEmpty && !n.condPending

end Block

end Sys2Proof.Machine
end

