-- ==== Sys2Proof/Machine/Ops.lean ====
section
/-! DEFINITION. The named operations over byte arrays, events, outputs and choices; the one operation by which a failure
cause is reported (60_exceptions R265, R278); addressing a unit. -/

namespace Sys2Proof.Machine

/-! ## Byte arrays (00_scope R10, 20_memory R60) -/

namespace Memory

/-- The byte at an address; none where nothing has been written. -/
def read? : Memory → Nat → Option Byte
  | [], _ => none
  | (x, v) :: m, a => if a = x then some v else read? m a

/-- One byte written, the form kept. -/
def write : Memory → Nat → Byte → Memory
  | [], a, b => [(a, b)]
  | (x, v) :: m, a, b =>
    if a < x then (a, b) :: (x, v) :: m
    else if a = x then (a, b) :: m
    else (x, v) :: write m a b

/-- `MemWrite`: bytes at rising addresses from `a` (R10). -/
def writeBytes : Memory → Nat → List Byte → Memory
  | m, _, [] => m
  | m, a, b :: bs => writeBytes (write m a b) (a + 1) bs

/-- `MemRead`: the bytes at `k` rising addresses from `a` (R10), those that have been written. -/
def readBytes : Memory → Nat → Nat → List Byte
  | _, _, 0 => []
  | m, a, k + 1 => (read? m a).toList ++ readBytes m (a + 1) k

/-- The canonical form: addresses strictly rising. An unlisted address holds no known value, which no entry equals. -/
def wf : Memory → Bool
  | [] => true
  | [_] => true
  | (x, _) :: (y, w) :: m => decide (x < y) && wf ((y, w) :: m)

end Memory

/-! ## Outputs and results (00_scope R10) -/

namespace Block

/-- `emit` (R10). -/
def emit (n : Block) (o : Output) : Block := { n with out := n.out ++ [o] }

/-- `return v` to the caller (R10). -/
def ret (n : Block) (r : Result) : Block := n.emit (.ret r)

end Block

/-- To whom each failure cause is reported, and as what (R265). -/
def Cause.output : Cause → Output
  | .checksumError => .ret .checksumError
  | .tooShort => .ret .tooShort
  | .txRefused => .ret (.bool false)
  | .frameTooLong n => .warn (.frameTooLong n)
  | .ringOverflow => .warn .ringOverflow
  | .queueFull => .warn .queueFull
  | .quietTimeout => .warn .quietTimeout
  | .absent => .ret .absent

namespace Block

/-- A failure is reported: nothing is saved, no mode changes, there is no vector (R278). What the block then does
(the flush of X5, X6, the resync of X7) stands with the operation that reports. -/
def report (n : Block) (c : Cause) : Block := n.emit c.output

/-! ## Choices the spec leaves open (log 5) -/

/-- The code of a unit among the arguments of the free values. -/
def idCode (n : Block) : Nat :=
  match n.id with
  | .first => 0
  | .second => 1

/-- The next outcome: the next supplied one, else a free value. -/
def draw (n : Block) : Nat × Block :=
  match n.choices with
  | c :: cs => (c, { n with choices := cs })
  | [] => (Config.freeChoice n.idCode n.drawn, { n with drawn := n.drawn + 1 })

/-- One of `k` outcomes; with no choice to make nothing is drawn. -/
def pick (n : Block) (k : Nat) : Nat × Block :=
  if k ≤ 1 then (0, n) else ((n.draw).1 % k, (n.draw).2)

/-! ## Events (10_state R24, 43_rx_framer R198) -/

/-- `post(e)` without merging (R198). -/
def post (p : Params) (n : Block) (e : Event) : Block :=
  if n.evq.length < p.evqCap then { n with evq := n.evq ++ [e] } else { n with condQueue := true }

/-- `post(Data(1))`: where there is room, the event may be merged with a `Data(m)` that is the newest entry (R195,
R198). Outcome 0 posts an event of its own, outcome 1 merges. -/
def postChar (p : Params) (n : Block) : Block :=
  match n.evq.getLast? with
  | some (.data m) =>
    if n.evq.length < p.evqCap then
      if (n.pick 2).1 = 0 then (n.pick 2).2.post p (.data 1)
      else { (n.pick 2).2 with evq := n.evq.dropLast ++ [.data (m + 1)] }
    else n.post p (.data 1)
  | _ => n.post p (.data 1)

/-! ## The delay generator and the line (44_tx_delay R231, R226 to R229) -/

/-- `DLY.START(T)` (R231). -/
def startDelay (n : Block) (d : Delay) : Block := { n with dly := some d }

/-- What the block sends comes back when the line echoes (R75, R209). -/
def sent (p : Params) (n : Block) (e : LineEvent) : Block :=
  { n with echo := if p.lineEcho then n.echo ++ [e] else n.echo }

/-! ## Flush and break (45_system_ops R252, 44_tx_delay R230) -/

/-- `RX.FLUSH` (R252). -/
def flush (n : Block) : Block :=
  { n with ring := [], evq := [], condRing := false, condQueue := false, rxCount := 0 }

/-- `TX.SENDBREAK(ctx)` with the transmitter idle (R230). -/
def sendBreak (n : Block) (ctx : Ctx) : Block :=
  { n with txLen := 0, txIdx := 0, txCtx := ctx, txPhase := .brkAssert }

/-- `RESYNC(ctx)` with the transmitter idle: flush, then a break (45_system_ops R253). -/
def resyncNow (n : Block) (ctx : Ctx) : Block := n.flush.sendBreak ctx

/-- Power-on reset: every element of the tuple at its power-on value (R301). The line's echo in flight, what has
already left the block and the supplied choices are not the block's (log 10, log 11, log 18). -/
def reset (p : Params) (n : Block) : Block :=
  { Block.powerOn p n.id with echo := n.echo, out := n.out, choices := n.choices, drawn := n.drawn }

end Block

/-! ## Addressing a unit (45_system_ops R255) -/

namespace State

/-- The tuple of a unit, if it exists. -/
def unit? (s : State) : UnitId → Option Block
  | .first => some s.first
  | .second => s.second

/-- The tuple of the unit the operation addresses. -/
def here? (s : State) : Option Block := s.unit? s.cur

/-- The addressed unit's tuple replaced. -/
def put (s : State) (n : Block) : State :=
  match s.cur with
  | .first => { s with first := n }
  | .second => { s with second := some n }

/-- An operation of one unit, run on the addressed unit; nothing else of the machine changes (R255). -/
def onHere (s : State) (f : Block → Host.Outcome Block Fault Refusal) : Host.Outcome State Fault Refusal :=
  match s.here? with
  | none => .refused .noSuchUnit
  | some n =>
    match f n with
    | .next n' => .next (s.put n')
    | .fault e => .fault e
    | .refused r => .refused r

end State

end Sys2Proof.Machine
end

