-- ==== Sys2Proof/Machine/Operands.lean ====
section
/-! DEFINITION. What the operations compute from their operands: the CRC (40_crc R130, R131), the codec's fields
(30_encoding R100 to R107), the place and value of a payload field (42_fields R180 to R183). -/

namespace Sys2Proof.Machine

/-! ## The CRC (40_crc) -/

/-- `crc8_step` (R131): one read of `CRC8_TABLE`, one exclusive or. -/
def crc8Step (p : Params) (acc b : Byte) : Byte := p.crc8Table.get acc.toFin ^^^ b

/-- `crc8` (R130). -/
def crc8 (p : Params) (buf : List Byte) : Byte := buf.foldl (crc8Step p) p.crc8Init

/-- Whether the last byte is the CRC-8 of the bytes before it (R137, 30_encoding R106). -/
def crcHolds (p : Params) (raw : List Byte) : Bool :=
  byteAt raw (raw.length - 1) == crc8 p (slice raw 0 (raw.length - 1))

/-! ## Fields of a frame (30_encoding R100 to R107) -/

/-- `operation` on decode (R101). -/
def operationOf (d : Byte) : Operation :=
  if d = 0x00 then .broadcast else if d.getLsbD 7 then .read else .write

/-- `typeId` in the extended dialect from its two wire bytes, reduced modulo 2^16 (R103, 41_codec R162). -/
def typeword (hi lo : Byte) : Half :=
  BitVec.ofNat 16 (hi.toNat * 256 + lo.toNat + Config.extTypeBias)

/-- The high wire byte of an extended type (R103). -/
def typeHi (ty : Half) : Byte := BitVec.ofNat 8 (ty.toNat / 256 - 1)

/-- The low wire byte of an extended type (R103). -/
def typeLo (ty : Half) : Byte := BitVec.ofNat 8 ty.toNat

/-- The requested length of a read (R107, 41_codec R155). -/
def reqlen (t : Telegram) : Byte :=
  match t.data with
  | [] => 0
  | b :: _ => b

/-- Byte 0 on encode (R100). -/
def sourceByte (t : Telegram) : Byte := t.sourceId ||| Config.roleBit

/-- Byte 1 on encode (R101). -/
def destinationByte (t : Telegram) : Byte :=
  if t.isRead ∧ t.destinationId ≠ 0 then t.destinationId ||| Config.roleBit else t.destinationId

/-- Byte 2 on encode (R102, R112). -/
def typeByte (t : Telegram) : Byte := if t.isExt then Config.extMarker else typeLo t.typeId

/-! ## Fields of a payload (42_fields) -/

/-- `FX.LOCATE` (R180): the local index of a field, if the telegram carries the whole of it. -/
def locate (t : Telegram) (pos w : Nat) : Option Nat :=
  if pos < t.offset.toNat then none
  else if t.offset.toNat + t.data.length < pos + w then none
  else some (pos - t.offset.toNat)

/-- A big-endian number (20_memory R61). -/
def bigEndian (bs : List Byte) : Nat := bs.foldl (fun v b => v * 256 + b.toNat) 0

/-- `FX.U` for a field that is present (R181). -/
def unsignedAt (t : Telegram) (k w : Nat) : Quad := BitVec.ofNat 32 (bigEndian (slice t.data k (k + w)))

/-- `sext_32(u, 8*w)` (00_scope R8, R182). -/
def signExtended (u : Quad) (w : Nat) : Quad := (u.truncate (8 * w)).signExtend 32

/-- `FX.S24`'s value (R183): bits 31 to 24 copied from bit 23. -/
def signed24At (t : Telegram) (k : Nat) : Quad :=
  let u : Quad := (byteAt t.data k).zeroExtend 32 <<< 16 ||| (byteAt t.data (k + 1)).zeroExtend 32 <<< 8
    ||| (byteAt t.data (k + 2)).zeroExtend 32
  if u.getLsbD 23 then u ||| 0xFF000000 else u

/-! ## Line levels (30_encoding R91, R92) -/

/-- What one bit time completes at the receiver. -/
inductive Heard where
  | nothing
  /-- A start bit, eight data bits and a high stop bit have been seen. -/
  | char (b : Byte)
  /-- The line has returned high after so many low bit times, more than ten. -/
  | brk (lowBits : Nat)
  /-- A low stop bit, and high again too soon for a break: a line error (93 U6). -/
  | error
  deriving DecidableEq, Repr

/-- One bit time at the receiver (R35 (a), (b), R91, R92; log 9). -/
def Hidden.sample (h : Hidden) (high : Bool) : Hidden × Heard :=
  match h.shift with
  | some bits =>
    if bits.length < Config.dataBits then
      ({ shift := some (bits ++ [high]), lowTime := if high then 0 else h.lowTime + 1 }, .nothing)
    else if high then (Hidden.idle, .char (byteOfBits bits))
    else ({ shift := none, lowTime := h.lowTime + 1 }, .nothing)
  | none =>
    if high then
      if h.lowTime = 0 then (Hidden.idle, .nothing)
      else if Config.charBits < h.lowTime then (Hidden.idle, .brk h.lowTime)
      else (Hidden.idle, .error)
    else if h.lowTime = 0 then ({ shift := some [], lowTime := 1 }, .nothing)
    else ({ shift := none, lowTime := h.lowTime + 1 }, .nothing)

end Sys2Proof.Machine
end

