-- ==== Sys2Proof/Machine/Codec.lean ====
section
/-! DEFINITION. The codec: `DECODE`, `ENCODE`, `CLASSIFY` and the rows of the frame layouts (41_codec R150 to R163). It
reads and writes no state: only the result leaves the block. -/

namespace Sys2Proof.Machine

/-! ## DECODE -/

/-- `DEC.LEG` (R151). -/
def decodeLeg (raw : List Byte) (op : Operation) (src dst : Byte) : Result :=
  .telegram
    { operation := op, sourceId := src, destinationId := dst, typeId := (byteAt raw 2).zeroExtend 16
      offset := byteAt raw 3, data := slice raw 4 (raw.length - 1) }

/-- `DEC.XRD` (R152). -/
def decodeXrd (raw : List Byte) (op : Operation) (src dst : Byte) : Result :=
  if raw.length < 8 then .tooShort
  else .telegram
    { operation := op, sourceId := src, destinationId := dst, typeId := typeword (byteAt raw 5) (byteAt raw 6)
      offset := byteAt raw 3, data := [byteAt raw 4] }

/-- `DEC.XWR` (R153). -/
def decodeXwr (raw : List Byte) (op : Operation) (src dst : Byte) : Result :=
  if raw.length < 7 then .tooShort
  else .telegram
    { operation := op, sourceId := src, destinationId := dst, typeId := typeword (byteAt raw 4) (byteAt raw 5)
      offset := byteAt raw 3, data := slice raw 6 (raw.length - 1) }

/-- `DECODE` (R150): too short for header and CRC first, then the CRC, then the layout (R163). -/
def decodeFrame (p : Params) (raw : List Byte) : Result :=
  if raw.length < 5 then .tooShort
  else if crcHolds p raw = false then .checksumError
  else if byteAt raw 2 ≠ Config.extMarker ∨ raw.length < Config.extMinLen then
    decodeLeg raw (operationOf (byteAt raw 1)) (byteAt raw 0 &&& Config.idMask) (byteAt raw 1 &&& Config.idMask)
  else if (byteAt raw 1).getLsbD 7 then
    decodeXrd raw (operationOf (byteAt raw 1)) (byteAt raw 0 &&& Config.idMask) (byteAt raw 1 &&& Config.idMask)
  else
    decodeXwr raw (operationOf (byteAt raw 1)) (byteAt raw 0 &&& Config.idMask) (byteAt raw 1 &&& Config.idMask)

/-- A result of the codec leaves the block: a telegram to the caller, a failure as X1, X2 (R265). -/
def Block.answer (n : Block) : Result → Block
  | .checksumError => n.report .checksumError
  | .tooShort => n.report .tooShort
  | r => n.ret r

/-- `DECODE(raw, L)` (R150); `L` is the buffer's length (93 U8). -/
def Block.decode (p : Params) (raw : List Byte) (len : Nat) (n : Block) : Host.Outcome Block Fault Refusal :=
  if len ≠ raw.length then .refused .lengthMismatch else .next (n.answer (decodeFrame p raw))

/-- The CRC check of R150, then the row's own rule. -/
def Block.decodeRow (p : Params) (raw : List Byte) (selected : Bool)
    (rule : List Byte → Operation → Byte → Byte → Result) (n : Block) : Host.Outcome Block Fault Refusal :=
  if selected = false then .refused .rowNotSelected
  else .next (n.answer (if crcHolds p raw = false then .checksumError
    else rule raw (operationOf (byteAt raw 1)) (byteAt raw 0 &&& Config.idMask) (byteAt raw 1 &&& Config.idMask)))

/-- The row `DEC.XRD`: a received frame that selects it (R152, R117, log 16). -/
def Block.decXrd (p : Params) (raw : List Byte) (n : Block) : Host.Outcome Block Fault Refusal :=
  n.decodeRow p raw (selectsXrd raw) decodeXrd

/-- The row `DEC.XWR` (R153). -/
def Block.decXwr (p : Params) (raw : List Byte) (n : Block) : Host.Outcome Block Fault Refusal :=
  n.decodeRow p raw (selectsXwr raw) decodeXwr

/-- The row `DEC.LEG` (R151). -/
def Block.decLeg (p : Params) (raw : List Byte) (n : Block) : Host.Outcome Block Fault Refusal :=
  n.decodeRow p raw (selectsLeg raw) decodeLeg

/-- The row `DEC.TOOSHORT` (R163 (a)): the CRC is not looked at. -/
def Block.decTooshort (raw : List Byte) (n : Block) : Host.Outcome Block Fault Refusal :=
  if selectsTooshort raw = false then .refused .rowNotSelected else .next (n.report .tooShort)

/-! ## ENCODE -/

/-- `ENC.LEG.RD`, the body (R155). -/
def bodyLegRd (t : Telegram) : List Byte := [reqlen t]

/-- `ENC.LEG.WR`, the body (R156): no length check (R161). -/
def bodyLegWr (t : Telegram) : List Byte := t.data

/-- `ENC.X.RD`, the body (R157). -/
def bodyXRd (t : Telegram) : List Byte := [reqlen t, typeHi t.typeId, typeLo t.typeId]

/-- `ENC.X.WR`, the body (R158). -/
def bodyXWr (t : Telegram) : List Byte := [typeHi t.typeId, typeLo t.typeId] ++ t.data

/-- The four header bytes, a body, and the CRC of both (R154). -/
def frameOf (p : Params) (t : Telegram) (body : List Byte) : List Byte :=
  let f := [sourceByte t, destinationByte t, typeByte t, t.offset] ++ body
  f ++ [crc8 p f]

/-- `ENCODE` (R154). -/
def encodeFrame (p : Params) (t : Telegram) : List Byte :=
  frameOf p t
    (if t.isExt then (if t.isRead then bodyXRd t else bodyXWr t)
     else (if t.isRead then bodyLegRd t else bodyLegWr t))

/-- `ENCODE(t)` (R154): always succeeds. -/
def Block.encode (p : Params) (t : Telegram) (n : Block) : Host.Outcome Block Fault Refusal :=
  .next (n.ret (.bytes (encodeFrame p t)))

/-- A row of the encoder: the frame with the row's body, for a telegram that selects the row (R116, log 16). -/
def Block.encodeRow (p : Params) (t : Telegram) (selected : Bool) (body : List Byte) (n : Block) :
    Host.Outcome Block Fault Refusal :=
  if selected = false then .refused .rowNotSelected else .next (n.ret (.bytes (frameOf p t body)))

/-- The row `ENC.LEG.RD` (R155). -/
def Block.encLegRd (p : Params) (t : Telegram) (n : Block) : Host.Outcome Block Fault Refusal :=
  n.encodeRow p t (!t.isExt && t.isRead) (bodyLegRd t)

/-- The row `ENC.LEG.WR` (R156). -/
def Block.encLegWr (p : Params) (t : Telegram) (n : Block) : Host.Outcome Block Fault Refusal :=
  n.encodeRow p t (!t.isExt && !t.isRead) (bodyLegWr t)

/-- The row `ENC.X.RD` (R157). -/
def Block.encXRd (p : Params) (t : Telegram) (n : Block) : Host.Outcome Block Fault Refusal :=
  n.encodeRow p t (t.isExt && t.isRead) (bodyXRd t)

/-- The row `ENC.X.WR` (R158). -/
def Block.encXWr (p : Params) (t : Telegram) (n : Block) : Host.Outcome Block Fault Refusal :=
  n.encodeRow p t (t.isExt && !t.isRead) (bodyXWr t)

/-! ## CLASSIFY -/

/-- `CLASSIFY` (R159): by length alone. -/
def classOf (len : Nat) : FrameClass :=
  if Config.pollMinLen ≤ len ∧ len ≤ Config.pollMaxLen then .poll
  else if Config.minTelegramLen ≤ len then .telegram
  else .other

/-- `CLASSIFY(L)` (R159). -/
def Block.classify (len : Nat) (n : Block) : Host.Outcome Block Fault Refusal :=
  .next (n.ret (.frameClass (classOf len)))

/-! ## The operations on the machine -/

def execDecode (raw : List Byte) (len : Nat) (s : State) : Host.Outcome State Fault Refusal :=
  s.onHere (Block.decode s.params raw len)

def execEncode (t : Telegram) (s : State) : Host.Outcome State Fault Refusal := s.onHere (Block.encode s.params t)

def execClassify (len : Nat) (s : State) : Host.Outcome State Fault Refusal := s.onHere (Block.classify len)

def execDecXrd (raw : List Byte) (s : State) : Host.Outcome State Fault Refusal := s.onHere (Block.decXrd s.params raw)

def execDecXwr (raw : List Byte) (s : State) : Host.Outcome State Fault Refusal := s.onHere (Block.decXwr s.params raw)

def execDecLeg (raw : List Byte) (s : State) : Host.Outcome State Fault Refusal := s.onHere (Block.decLeg s.params raw)

def execDecTooshort (raw : List Byte) (s : State) : Host.Outcome State Fault Refusal := s.onHere (Block.decTooshort raw)

def execEncLegRd (t : Telegram) (s : State) : Host.Outcome State Fault Refusal := s.onHere (Block.encLegRd s.params t)

def execEncLegWr (t : Telegram) (s : State) : Host.Outcome State Fault Refusal := s.onHere (Block.encLegWr s.params t)

def execEncXRd (t : Telegram) (s : State) : Host.Outcome State Fault Refusal := s.onHere (Block.encXRd s.params t)

def execEncXWr (t : Telegram) (s : State) : Host.Outcome State Fault Refusal := s.onHere (Block.encXWr s.params t)

end Sys2Proof.Machine
end

