-- ==== Sys2Proof/Machine/Crc.lean ====
section
/-! DEFINITION. The CRC unit (40_crc R133 to R137). There is no CRC-16 (R138). -/

namespace Sys2Proof.Machine

/-- `CRC8.CLR` (R133). -/
def Block.crc8Clr (p : Params) (n : Block) : Host.Outcome Block Fault Refusal :=
  .next { n with crcAcc := p.crc8Init }

/-- `CRC8.UPD(b)` (R134). -/
def Block.crc8Upd (p : Params) (b : Byte) (n : Block) : Host.Outcome Block Fault Refusal :=
  .next { n with crcAcc := crc8Step p n.crcAcc b }

/-- `CRC8.RD` (R135). -/
def Block.crc8Rd (n : Block) : Host.Outcome Block Fault Refusal :=
  .next (n.ret (.byte n.crcAcc))

/-- `CRC8.BLK(buf)` (R136): neither reads nor writes `crc_acc`. -/
def Block.crc8Blk (p : Params) (buf : List Byte) (n : Block) : Host.Outcome Block Fault Refusal :=
  .next (n.ret (.byte (crc8 p buf)))

/-- `CRC8.CHK(raw, L)` (R137): `L` = 0 is outside the operand range. -/
def Block.crc8Chk (p : Params) (raw : List Byte) (len : Nat) (n : Block) : Host.Outcome Block Fault Refusal :=
  if len = 0 then .refused .operandRange
  else if len ≠ raw.length then .refused .lengthMismatch
  else .next (n.ret (.bool (crcHolds p raw)))

def execCrc8Clr (s : State) : Host.Outcome State Fault Refusal := s.onHere (Block.crc8Clr s.params)

def execCrc8Upd (b : Byte) (s : State) : Host.Outcome State Fault Refusal := s.onHere (Block.crc8Upd s.params b)

def execCrc8Rd (s : State) : Host.Outcome State Fault Refusal := s.onHere Block.crc8Rd

def execCrc8Blk (buf : List Byte) (s : State) : Host.Outcome State Fault Refusal :=
  s.onHere (Block.crc8Blk s.params buf)

def execCrc8Chk (raw : List Byte) (len : Nat) (s : State) : Host.Outcome State Fault Refusal :=
  s.onHere (Block.crc8Chk s.params raw len)

end Sys2Proof.Machine
end

