-- ==== Sys2Proof/Machine/Fields.lean ====
section
/-! DEFINITION. Typed field extraction (42_fields R180 to R184): pure functions of a decoded telegram. -/

namespace Sys2Proof.Machine

/-- The value of a field, or X8 `absent` when the telegram does not carry the whole of it (R180, R185). -/
def Block.field (n : Block) (t : Telegram) (pos w : Nat) (value : Nat → Result) : Block :=
  match locate t pos w with
  | none => n.report .absent
  | some k => n.ret (value k)

/-- `FX.LOCATE(t, pos, w)` (R180), `w` >= 1. -/
def Block.fxLocate (t : Telegram) (pos w : Nat) (n : Block) : Host.Outcome Block Fault Refusal :=
  if w = 0 then .refused .operandRange else .next (n.field t pos w fun k => .index k)

/-- `FX.U(t, pos, w)` (R181), `w` from 1 to 4. -/
def Block.fxU (t : Telegram) (pos w : Nat) (n : Block) : Host.Outcome Block Fault Refusal :=
  if w = 0 ∨ 4 < w then .refused .operandRange else .next (n.field t pos w fun k => .unsigned (unsignedAt t k w))

/-- `FX.S(t, pos, w)` (R182), `w` from 1 to 4. -/
def Block.fxS (t : Telegram) (pos w : Nat) (n : Block) : Host.Outcome Block Fault Refusal :=
  if w = 0 ∨ 4 < w then .refused .operandRange
  else .next (n.field t pos w fun k => .signed (signExtended (unsignedAt t k w) w))

/-- `FX.S24(t, pos)` (R183). -/
def Block.fxS24 (t : Telegram) (pos : Nat) (n : Block) : Host.Outcome Block Fault Refusal :=
  .next (n.field t pos 3 fun k => .signed (signed24At t k))

/-- `FX.BIT(t, pos, p)` (R184), `p` from 0 to 7. -/
def Block.fxBit (t : Telegram) (pos bit : Nat) (n : Block) : Host.Outcome Block Fault Refusal :=
  if 7 < bit then .refused .operandRange
  else .next (n.field t pos 1 fun k => .bool ((byteAt t.data k).getLsbD bit))

def execFxLocate (t : Telegram) (pos w : Nat) (s : State) : Host.Outcome State Fault Refusal :=
  s.onHere (Block.fxLocate t pos w)

def execFxU (t : Telegram) (pos w : Nat) (s : State) : Host.Outcome State Fault Refusal := s.onHere (Block.fxU t pos w)

def execFxS (t : Telegram) (pos w : Nat) (s : State) : Host.Outcome State Fault Refusal := s.onHere (Block.fxS t pos w)

def execFxS24 (t : Telegram) (pos : Nat) (s : State) : Host.Outcome State Fault Refusal := s.onHere (Block.fxS24 t pos)

def execFxBit (t : Telegram) (pos bit : Nat) (s : State) : Host.Outcome State Fault Refusal :=
  s.onHere (Block.fxBit t pos bit)

end Sys2Proof.Machine
end

