-- ==== Sys2Proof/Machine/Rx.lean ====
section
/-! DEFINITION. The line receiver and the loop context (43_rx_framer R195 to R210). -/

namespace Sys2Proof.Machine

/-! ## The line receiver -/

/-- A character received (R195): kept and counted, or lost with `cond_ring` set when `ring` is full (R197). -/
def Block.hearChar (p : Params) (n : Block) (b : Byte) : Block :=
  if n.ring.length < p.ringCap then ({ n with ring := n.ring ++ [b] }).postChar p
  else { n with condRing := true }

/-- A break received (R196): nothing enters `ring`. -/
def Block.hearBreak (p : Params) (n : Block) : Block := n.post p .brk

/-- `LINE.CHAR(b)` (R195). -/
def Block.lineChar (p : Params) (b : Byte) (n : Block) : Host.Outcome Block Fault Refusal := .next (n.hearChar p b)

/-- `LINE.BREAK` (R196). -/
def Block.lineBreak (p : Params) (n : Block) : Host.Outcome Block Fault Refusal := .next (n.hearBreak p)

/-! ## The loop context's reactions -/

/-- A `Data(k)` taken (R200). -/
def Block.countData (n : Block) (k : Nat) : Block := { n with rxCount := n.rxCount + k }

/-- `strip` (R203): the break never enters `ring`, so nothing is to be removed. -/
def strip (bytes : List Byte) : List Byte := bytes

/-- A frame handed to the host with its class (R204); with no callback registered it is dropped (D32). -/
def Block.handOver (n : Block) (frame : List Byte) : Block :=
  match n.cb with
  | none => n
  | some _ => ({ n with inCallback := true }).emit (.frame frame frame.length (classOf frame.length))

/-- The oldest `k` bytes leave `ring` and the count starts again (R201, R202). -/
def Block.endFrame (n : Block) (k : Nat) : Block := { n with rxCount := 0, ring := n.ring.drop k }

/-- A `Break` taken: the frame that fits is stored and delivered (R201), one that does not is discarded (R202). -/
def Block.takeBreak (p : Params) (n : Block) : Block :=
  let k := min n.rxCount n.ring.length
  if n.rxOverlong p then (n.endFrame k).report (.frameTooLong n.rxCount)
  else
    let buf := Memory.writeBytes n.rxBuf 0 (n.ring.take k)
    ({ n.endFrame k with rxBuf := buf }).handOver (strip (Memory.readBytes buf 0 k))

/-- The reaction to a ring overflow (R205). -/
def Block.handleRingovf (n : Block) : Block := (n.report .ringOverflow).flush

/-- The reaction to a full queue (R206). -/
def Block.handleQfull (n : Block) : Block := (n.report .queueFull).flush

/-- The reaction to the quiet timeout (R207): `RESYNC(LOOP)` has no step while a transmission is in progress (R253,
R234, log 13). -/
def Block.handleTimeout (n : Block) : Host.Outcome Block Fault Refusal :=
  if n.txBusy then .refused .txBusy else .next ((n.report .quietTimeout).resyncNow .loop)

/-- The next event taken from `evq` (R199 (c)). -/
def Block.takeEvent (p : Params) (n : Block) : Block :=
  match n.evq with
  | [] => n
  | .data k :: es => ({ n with evq := es }).countData k
  | .brk :: es => ({ n with evq := es }).takeBreak p

/-- What a wait can select when something is pending (R199 (a) to (c)). -/
inductive LoopStep where
  | ringovf | qfull | event
  deriving DecidableEq, Repr

/-- The selections possible now: every one is admitted (R199, D26). -/
def Block.pending (n : Block) : List LoopStep :=
  (if n.condRing then [.ringovf] else []) ++ (if n.condQueue then [.qfull] else [])
    ++ (if n.evq.isEmpty then [] else [.event])

/-- A selection carried out. -/
def Block.loopStep (p : Params) (n : Block) : LoopStep → Block
  | .ringovf => n.handleRingovf
  | .qfull => n.handleQfull
  | .event => n.takeEvent p

/-- A wait with nothing pending: `T_QUIET` has not passed and it goes on (outcome 0, log 23), or the timeout is
selected (R199 (d), D30), which during a transmission of another context is refused (log 13). -/
def Block.waitQuiet (n : Block) : Host.Outcome Block Fault Refusal :=
  if (n.pick 2).1 = 0 then .next (n.pick 2).2 else (n.pick 2).2.handleTimeout

/-- A wait with something pending: exactly one selection. -/
def Block.waitPending (p : Params) (n : Block) : Block :=
  (n.pick n.pending.length).2.loopStep p (n.pending.getD (n.pick n.pending.length).1 .event)

/-- A step of the loop context: while it can take none (before LISTEN.START, during a callback, inside its own
transmission) the step is outside its enabling condition and refused (R199, R28, 44_tx_delay R236, 60_exceptions R274,
R279, 95_test_vectors S4). -/
def Block.asLoop (n : Block) (o : Host.Outcome Block Fault Refusal) : Host.Outcome Block Fault Refusal :=
  if n.loopFree = false then .refused .loopNotFree else o

/-- `RX.WAIT` (R199): the quiet timer restarts (R28). -/
def Block.rxWait (p : Params) (n : Block) : Host.Outcome Block Fault Refusal :=
  n.asLoop
    (if n.nothingPending then Block.waitQuiet { n with quiet := .waiting }
     else .next (Block.waitPending p { n with quiet := .waiting }))

/-- `RX.EV.DATA(n)` (R200), a step of the loop context (R199, log 12). No rule says what a count of 0 does, which R24
keeps out of `evq`: DESIGN CHOICE, issued by itself it adds 0 (log 12). -/
def Block.rxEvData (k : Nat) (n : Block) : Host.Outcome Block Fault Refusal :=
  n.asLoop (.next (n.countData k))

/-- `RX.EV.BREAK` (R201, R202). -/
def Block.rxEvBreak (p : Params) (n : Block) : Host.Outcome Block Fault Refusal :=
  n.asLoop (.next (n.takeBreak p))

/-- `RX.EV.RINGOVF` (R205). -/
def Block.rxEvRingovf (n : Block) : Host.Outcome Block Fault Refusal :=
  n.asLoop (if n.condRing = false then .refused .noCondition else .next n.handleRingovf)

/-- `RX.EV.QFULL` (R206). -/
def Block.rxEvQfull (n : Block) : Host.Outcome Block Fault Refusal :=
  n.asLoop (if n.condQueue = false then .refused .noCondition else .next n.handleQfull)

/-- `RX.EV.TIMEOUT` (R207). -/
def Block.rxEvTimeout (n : Block) : Host.Outcome Block Fault Refusal :=
  n.asLoop (if n.nothingPending = false then .refused .notQuiet else n.handleTimeout)

/-- `RX.DELIVER(frame)` (R204). -/
def Block.rxDeliver (frame : List Byte) (n : Block) : Host.Outcome Block Fault Refusal :=
  n.asLoop (.next (n.handOver frame))

/-- `CB.RETURN` (R210): the one return, beside the one delivery. -/
def Block.cbReturn (n : Block) : Host.Outcome Block Fault Refusal :=
  if n.inCallback = false then .refused .notInCallback
  else if n.loopHeld then .refused .heldByTransmission
  else .next { n with inCallback := false }

/-! ## The operations on the machine -/

def execLineChar (b : Byte) (s : State) : Host.Outcome State Fault Refusal := s.onHere (Block.lineChar s.params b)

def execLineBreak (s : State) : Host.Outcome State Fault Refusal := s.onHere (Block.lineBreak s.params)

def execRxWait (s : State) : Host.Outcome State Fault Refusal := s.onHere (Block.rxWait s.params)

def execRxEvData (k : Nat) (s : State) : Host.Outcome State Fault Refusal := s.onHere (Block.rxEvData k)

def execRxEvBreak (s : State) : Host.Outcome State Fault Refusal := s.onHere (Block.rxEvBreak s.params)

def execRxEvRingovf (s : State) : Host.Outcome State Fault Refusal := s.onHere Block.rxEvRingovf

def execRxEvQfull (s : State) : Host.Outcome State Fault Refusal := s.onHere Block.rxEvQfull

def execRxEvTimeout (s : State) : Host.Outcome State Fault Refusal := s.onHere Block.rxEvTimeout

def execRxDeliver (frame : List Byte) (s : State) : Host.Outcome State Fault Refusal := s.onHere (Block.rxDeliver frame)

def execCbReturn (s : State) : Host.Outcome State Fault Refusal := s.onHere Block.cbReturn

end Sys2Proof.Machine
end

