-- ==== Sys2Proof/Machine/System.lean ====
section
/-! DEFINITION. The system operations (45_system_ops R250 to R254) and power-on reset (70_reset_and_hazards R301). None
is privileged (60_exceptions R282). -/

namespace Sys2Proof.Machine

/-- `CFG.LINE` (R250): the settings are hardwired and no element of the state changes (log 20). -/
def Block.cfgLine (n : Block) : Host.Outcome Block Fault Refusal := .next n

/-- `CB.REGISTER(f)` (R251): a second registration replaces the first. -/
def Block.cbRegister (f : Nat) (n : Block) : Host.Outcome Block Fault Refusal := .next { n with cb := some f }

/-- `RX.FLUSH` (R252). -/
def Block.rxFlush (n : Block) : Host.Outcome Block Fault Refusal := .next n.flush

/-- `RESYNC(ctx)` (R253). -/
def Block.resync (ctx : Ctx) (n : Block) : Host.Outcome Block Fault Refusal :=
  if n.txBusy then .refused .txBusy else .next (n.resyncNow ctx)

/-- `LISTEN.START` (R254). -/
def Block.listenStart (n : Block) : Host.Outcome Block Fault Refusal := .next { n with listening := true }

/-- `RESET` (R301): enabled always. -/
def Block.powerReset (p : Params) (n : Block) : Host.Outcome Block Fault Refusal := .next (n.reset p)

def execCfgLine (s : State) : Host.Outcome State Fault Refusal := s.onHere Block.cfgLine

def execCbRegister (f : Nat) (s : State) : Host.Outcome State Fault Refusal := s.onHere (Block.cbRegister f)

def execRxFlush (s : State) : Host.Outcome State Fault Refusal := s.onHere Block.rxFlush

def execResync (ctx : Ctx) (s : State) : Host.Outcome State Fault Refusal := s.onHere (Block.resync ctx)

def execListenStart (s : State) : Host.Outcome State Fault Refusal := s.onHere Block.listenStart

def execReset (s : State) : Host.Outcome State Fault Refusal := s.onHere (Block.powerReset s.params)

end Sys2Proof.Machine
end

