-- ==== Sys2Proof/Machine/Tx.lean ====
section
/-! DEFINITION. The transmit sequencer and the delay generator (44_tx_delay R225 to R232). -/

namespace Sys2Proof.Machine

/-- A buffer accepted for transmission (R225). -/
def Block.loadTx (n : Block) (bytes : List Byte) (ctx : Ctx) : Block :=
  { n with
    txBuf := Memory.writeBytes n.txBuf 0 bytes
    txLen := bytes.length
    txIdx := 0
    txCtx := ctx
    txPhase := .byte }

/-- `TX.START(bytes, ctx)` (R225): busy is decided before the length (60_exceptions R277 (e)); false at once for an
empty or too long buffer (X3); true comes with the release of the line (R229). -/
def Block.txStart (p : Params) (bytes : List Byte) (ctx : Ctx) (n : Block) : Host.Outcome Block Fault Refusal :=
  if n.txBusy then .refused .txBusy
  else .next (if bytes.length = 0 ∨ p.txMaxLen < bytes.length then n.report .txRefused else n.loadTx bytes ctx)

/-- One character put on the line, then the gap (R226). -/
def Block.sendChar (p : Params) (n : Block) (b : Byte) : Block :=
  ({ ((n.emit (.lineChar b)).startDelay .byteGap).sent p (.char b) with txd := .char b, txPhase := .gap })

/-- `TX.BYTE` (R226). A byte of `TXBUF` that nothing has written is a free value (93 U15, log 6). -/
def Block.txByte (p : Params) (n : Block) : Host.Outcome Block Fault Refusal :=
  if n.txPhase ≠ .byte then .refused .wrongPhase
  else if p.txMaxLen ≤ n.txIdx then .fault (.noSuchAddress .txbuf n.txIdx)
  else
    match Memory.read? n.txBuf n.txIdx with
    | some b => .next (n.sendChar p b)
    | none => .next ((n.draw).2.sendChar p (BitVec.ofNat 8 (n.draw).1))

/-- `TX.GAP` (R227), once the delay has expired. -/
def Block.txGap (n : Block) : Host.Outcome Block Fault Refusal :=
  if n.txPhase ≠ .gap then .refused .wrongPhase
  else if n.dly ≠ none then .refused .delayRunning
  else .next { n with
    txd := .released
    txIdx := n.txIdx + 1
    txPhase := if n.txIdx + 1 < n.txLen then .byte else .brkAssert }

/-- `TX.BRK.ASSERT` (R228). -/
def Block.txBrkAssert (n : Block) : Host.Outcome Block Fault Refusal :=
  if n.txPhase ≠ .brkAssert then .refused .wrongPhase
  else .next { (n.emit .lineLow).startDelay .breakHold with txd := .space, txPhase := .brkHold }

/-- The result true for the caller of TX.START; nothing after TX.SENDBREAK, which has set `tx_len` to 0 (R229, R230,
log 11). -/
def Block.retSent (n : Block) : Block := if n.txLen = 0 then n else n.ret (.bool true)

/-- `TX.BRK.RELEASE` (R229), once the delay has expired. -/
def Block.txBrkRelease (p : Params) (n : Block) : Host.Outcome Block Fault Refusal :=
  if n.txPhase ≠ .brkHold then .refused .wrongPhase
  else if n.dly ≠ none then .refused .delayRunning
  else .next { ((n.emit .lineRelease).retSent).sent p .brk with txd := .released, txPhase := .idle }

/-- `TX.SENDBREAK(ctx)` (R230). -/
def Block.txSendbreak (ctx : Ctx) (n : Block) : Host.Outcome Block Fault Refusal :=
  if n.txBusy then .refused .txBusy else .next (n.sendBreak ctx)

/-- The phase in which a delay runs: TX.BYTE and TX.BRK.ASSERT enter it and start that delay (R226, R228, 10_state R31). -/
def delayPhase : Delay → TxPhase
  | .byteGap => .gap
  | .breakHold => .brkHold

/-- `DLY.START(T)` (R231), issued only by TX.BYTE and TX.BRK.ASSERT, each with its own duration. DESIGN CHOICE: issued by
itself it has a step only in the phase its issuer enters, with that duration and the generator stopped (log 21). -/
def Block.dlyStart (d : Delay) (n : Block) : Host.Outcome Block Fault Refusal :=
  if n.txPhase ≠ delayPhase d then .refused .wrongPhase
  else if n.dly ≠ none then .refused .delayRunning
  else .next (n.startDelay d)

/-- `DLY.EXPIRE` (R232): possible whenever the delay runs (log 8). -/
def Block.dlyExpire (n : Block) : Host.Outcome Block Fault Refusal :=
  if n.dly = none then .refused .delayStopped else .next { n with dly := none }

def execTxStart (bytes : List Byte) (ctx : Ctx) (s : State) : Host.Outcome State Fault Refusal :=
  s.onHere (Block.txStart s.params bytes ctx)

def execTxByte (s : State) : Host.Outcome State Fault Refusal := s.onHere (Block.txByte s.params)

def execTxGap (s : State) : Host.Outcome State Fault Refusal := s.onHere Block.txGap

def execTxBrkAssert (s : State) : Host.Outcome State Fault Refusal := s.onHere Block.txBrkAssert

def execTxBrkRelease (s : State) : Host.Outcome State Fault Refusal := s.onHere (Block.txBrkRelease s.params)

def execTxSendbreak (ctx : Ctx) (s : State) : Host.Outcome State Fault Refusal := s.onHere (Block.txSendbreak ctx)

def execDlyStart (d : Delay) (s : State) : Host.Outcome State Fault Refusal := s.onHere (Block.dlyStart d)

def execDlyExpire (s : State) : Host.Outcome State Fault Refusal := s.onHere Block.dlyExpire

end Sys2Proof.Machine
end

