-- ==== Sys2Proof/Machine/Wire.lean ====
section
/-! DEFINITION. The wire formats as operations: a whole character, a whole break, a poll frame (30_encoding R91, R92,
R98; log 16). The frame rows stand with the codec. -/

namespace Sys2Proof.Machine

/-- `CH` (R91): the line has presented one complete character; none is in reception any more (R35 (a)). -/
def Block.wireChar (p : Params) (b : Byte) (n : Block) : Host.Outcome Block Fault Refusal :=
  .next (({ n with hidden := .idle }).hearChar p b)

/-- `BRK` (R92): one low period of more than ten bit times is one break however long it lasts (D29). -/
def Block.wireBreak (p : Params) (lowBits : Nat) (n : Block) : Host.Outcome Block Fault Refusal :=
  if lowBits ≤ Config.charBits then .refused .operandRange
  else .next (({ n with hidden := .idle }).hearBreak p)

/-- A poll frame (R98) as the line presents it: its characters, then the break that ends it (R111, log 16). The block
does not interpret it; what the loop context cannot take yet waits in `ring` and `evq` (60_exceptions R276). -/
def Block.wirePoll (p : Params) (frame : List Byte) (n : Block) : Host.Outcome Block Fault Refusal :=
  .next ((frame.foldl (Block.hearChar p) { n with hidden := .idle }).hearBreak p)

def execCh (b : Byte) (s : State) : Host.Outcome State Fault Refusal := s.onHere (Block.wireChar s.params b)

def execBrk (lowBits : Nat) (s : State) : Host.Outcome State Fault Refusal := s.onHere (Block.wireBreak s.params lowBits)

def execPoll1 (b : Byte) (s : State) : Host.Outcome State Fault Refusal :=
  s.onHere (Block.wirePoll s.params [b])

def execPoll2 (b0 b1 : Byte) (s : State) : Host.Outcome State Fault Refusal :=
  s.onHere (Block.wirePoll s.params [b0, b1])

end Sys2Proof.Machine
end

