-- ==== Sys2Proof/Machine/Dispatch.lean ====
section
/-! DEFINITION. One arm per operation: a direct call of its meaning. -/

namespace Sys2Proof.Machine

def exec (i : Instr) (s : State) : Host.Outcome State Fault Refusal :=
  match i with
  | .crc8Clr => Sys2Proof.Machine.execCrc8Clr s
  | .crc8Upd b => Sys2Proof.Machine.execCrc8Upd b s
  | .crc8Rd => Sys2Proof.Machine.execCrc8Rd s
  | .crc8Blk buf => Sys2Proof.Machine.execCrc8Blk buf s
  | .crc8Chk raw len => Sys2Proof.Machine.execCrc8Chk raw len s
  | .decode raw len => Sys2Proof.Machine.execDecode raw len s
  | .encode t => Sys2Proof.Machine.execEncode t s
  | .classify len => Sys2Proof.Machine.execClassify len s
  | .fxLocate t pos w => Sys2Proof.Machine.execFxLocate t pos w s
  | .fxU t pos w => Sys2Proof.Machine.execFxU t pos w s
  | .fxS t pos w => Sys2Proof.Machine.execFxS t pos w s
  | .fxS24 t pos => Sys2Proof.Machine.execFxS24 t pos s
  | .fxBit t pos bit => Sys2Proof.Machine.execFxBit t pos bit s
  | .lineChar b => Sys2Proof.Machine.execLineChar b s
  | .lineBreak => Sys2Proof.Machine.execLineBreak s
  | .rxWait => Sys2Proof.Machine.execRxWait s
  | .rxEvData n => Sys2Proof.Machine.execRxEvData n s
  | .rxEvBreak => Sys2Proof.Machine.execRxEvBreak s
  | .rxEvRingovf => Sys2Proof.Machine.execRxEvRingovf s
  | .rxEvQfull => Sys2Proof.Machine.execRxEvQfull s
  | .rxEvTimeout => Sys2Proof.Machine.execRxEvTimeout s
  | .rxDeliver frame => Sys2Proof.Machine.execRxDeliver frame s
  | .cbReturn => Sys2Proof.Machine.execCbReturn s
  | .txStart bytes ctx => Sys2Proof.Machine.execTxStart bytes ctx s
  | .txByte => Sys2Proof.Machine.execTxByte s
  | .txGap => Sys2Proof.Machine.execTxGap s
  | .txBrkAssert => Sys2Proof.Machine.execTxBrkAssert s
  | .txBrkRelease => Sys2Proof.Machine.execTxBrkRelease s
  | .txSendbreak ctx => Sys2Proof.Machine.execTxSendbreak ctx s
  | .dlyStart d => Sys2Proof.Machine.execDlyStart d s
  | .dlyExpire => Sys2Proof.Machine.execDlyExpire s
  | .cfgLine => Sys2Proof.Machine.execCfgLine s
  | .cbRegister f => Sys2Proof.Machine.execCbRegister f s
  | .rxFlush => Sys2Proof.Machine.execRxFlush s
  | .resync ctx => Sys2Proof.Machine.execResync ctx s
  | .listenStart => Sys2Proof.Machine.execListenStart s
  | .reset => Sys2Proof.Machine.execReset s
  | .ch b => Sys2Proof.Machine.execCh b s
  | .brk lowBits => Sys2Proof.Machine.execBrk lowBits s
  | .poll1 b => Sys2Proof.Machine.execPoll1 b s
  | .poll2 b0 b1 => Sys2Proof.Machine.execPoll2 b0 b1 s
  | .decXrd raw => Sys2Proof.Machine.execDecXrd raw s
  | .decXwr raw => Sys2Proof.Machine.execDecXwr raw s
  | .decLeg raw => Sys2Proof.Machine.execDecLeg raw s
  | .decTooshort raw => Sys2Proof.Machine.execDecTooshort raw s
  | .encLegRd t => Sys2Proof.Machine.execEncLegRd t s
  | .encLegWr t => Sys2Proof.Machine.execEncLegWr t s
  | .encXRd t => Sys2Proof.Machine.execEncXRd t s
  | .encXWr t => Sys2Proof.Machine.execEncXWr t s

end Sys2Proof.Machine
end

