-- ==== Sys2Proof/Machine/Fetch.lean ====
section
/-! DEFINITION. What happens next: the next entry of `inbox`, decoded; with an empty inbox, a move of the block's own
agents (log 1, log 15). -/

namespace Sys2Proof.Machine

/-- What the next step is to do. -/
inductive Fetched where
  /-- Nothing is issued and no agent of the block can move: the block waits. -/
  | idle
  /-- A bit time that completes nothing. -/
  | only (s : State)
  /-- What is presented is no operation. -/
  | refused (r : Refusal)
  /-- An operation, to be performed in this state. -/
  | run (i : Instr) (s : State)

/-- A line error (93 U6): nothing, or a character with any byte; never a break. -/
def fetchError (n : Block) (s : State) : Fetched :=
  match (n.draw).1 with
  | 0 => .only (s.put (n.draw).2)
  | c + 1 => .run (.lineChar (BitVec.ofNat 8 c)) (s.put (n.draw).2)

/-- One bit time at the addressed unit's receiver: what it completes is a `CH` or a `BRK` (R35, R91, R92). -/
def fetchLevel (high : Bool) (s : State) : Fetched :=
  match s.here? with
  | none => .refused .noSuchUnit
  | some n =>
    let m := { n with hidden := (n.hidden.sample high).1 }
    match (n.hidden.sample high).2 with
    | .nothing => .only (s.put m)
    | .char b => .run (.ch b) (s.put m)
    | .brk k => .run (.brk k) (s.put m)
    | .error => fetchError m s

/-- The oldest echo of the addressed unit's transmission is presented to it (R75, R209). -/
def fetchEcho (s : State) : Fetched :=
  match s.here? with
  | none => .refused .noSuchUnit
  | some n =>
    match n.echo with
    | [] => .refused .noEcho
    | .char b :: es => .run (.lineChar b) (s.put { n with echo := es })
    | .brk :: es => .run .lineBreak (s.put { n with echo := es })

/-- What is presented, as what the step is to do. -/
def fetchCode (c : Code) (s : State) : Fetched :=
  match c with
  | .level high => fetchLevel high s
  | .echo => fetchEcho s
  | c =>
    match Sys2Proof.decode c with
    | .error why => .refused (.undecodable why)
    | .ok i => .run i s

/-- An entry addressed to its unit. -/
def fetchEntry (e : Entry) (s : State) : Fetched := fetchCode e.code { s with cur := e.dest }

/-! ## The block's own agents -/

/-- The transmit sequencer's step, if it can take one (R226 to R229). -/
def Block.txMoves (n : Block) : List Code :=
  match n.txPhase, n.dly with
  | .idle, _ => []
  | .byte, _ => [Sys2Proof.encode .txByte]
  | .gap, none => [Sys2Proof.encode .txGap]
  | .gap, some _ => []
  | .brkAssert, _ => [Sys2Proof.encode .txBrkAssert]
  | .brkHold, none => [Sys2Proof.encode .txBrkRelease]
  | .brkHold, some _ => []

/-- The expiry of a running delay (R232). -/
def Block.delayMoves (n : Block) : List Code := if n.dly = none then [] else [Sys2Proof.encode .dlyExpire]

/-- The loop context's wait, if it can take one (R199). -/
def Block.loopMoves (n : Block) : List Code := if n.loopFree then [Sys2Proof.encode .rxWait] else []

/-- The echo in flight (R75). -/
def Block.echoMoves (n : Block) : List Code := if n.echo.isEmpty then [] else [Code.echo]

/-- The moves open to unit `id` without the host or a remote device. -/
def Block.moves (n : Block) (id : UnitId) : List Entry :=
  (n.txMoves ++ n.delayMoves ++ n.loopMoves ++ n.echoMoves).map fun c => { dest := id, code := c }

/-- The moves open in the machine. -/
def State.moves (s : State) : List Entry :=
  s.first.moves .first ++ (match s.second with | none => [] | some n => n.moves .second)

/-- Which of `k` moves is taken: the next supplied turn, else a free one; no choice is drawn where there is none. -/
def State.pickTurn (s : State) (k : Nat) : Nat × State :=
  if k ≤ 1 then (0, s)
  else
    match s.turns with
    | c :: cs => (c % k, { s with turns := cs })
    | [] => (Config.freeChoice 2 s.turn % k, { s with turn := s.turn + 1 })

/-- A move of the block's own agents. -/
def fetchOwn (s : State) : Fetched :=
  match s.moves[(s.pickTurn s.moves.length).1]? with
  | none => .idle
  | some e => fetchEntry e (s.pickTurn s.moves.length).2

/-- What happens next. -/
def State.fetch (s : State) : Fetched :=
  match s.inbox with
  | [] => fetchOwn s
  | e :: es => fetchEntry e { s with inbox := es }

/-- An operation issued to a unit, after those already issued. -/
def State.issue (s : State) (id : UnitId) (c : Code) : State :=
  { s with inbox := s.inbox ++ [{ dest := id, code := c }] }

/-! ## Actions of the host that the spec describes (log 25) -/

/-- The poll acknowledgment byte, `ourId | addressMask` (30_encoding R98, R114). -/
def pollAck (p : Params) (ourId : Byte) : Byte := ourId ||| p.addressMask

/-- The host answers a poll with the bare acknowledgment, from inside the callback (R114). -/
def State.issueAck (s : State) (id : UnitId) (ourId : Byte) : State :=
  s.issue id (Sys2Proof.encode (.txStart [pollAck s.params ourId] .loop))

/-- The frame an output delivers, if it is a delivery. -/
def Output.frame? : Output → Option (List Byte)
  | .frame bytes _ _ => some bytes
  | _ => none

/-- The second unit's callback hands the frame it was given to the first unit's transmitter (45_system_ops R257). -/
def State.issueForward (s : State) : State :=
  match s.second with
  | none => s
  | some n =>
    match n.inCallback, n.out.reverse.findSome? Output.frame? with
    | true, some bytes => s.issue .first (Sys2Proof.encode (.txStart bytes .ext))
    | _, _ => s

end Sys2Proof.Machine
end

