-- ==== Sys2Proof/Machine/Step.lean ====
section
/-! DEFINITION. One step: what is fetched is performed; the state into which a word of the opcode table is placed. -/

namespace Sys2Proof.Machine

/-- One atomic step of one agent of one unit (00_scope R2). -/
def step (s : State) : Host.Outcome State Fault Refusal :=
  match s.fetch with
  | .idle => .next s
  | .only s' => .next s'
  | .refused r => .refused r
  | .run i s' => exec i s'

/-- `s` with the operation of a table word issued to the addressed unit before everything else (log 3). -/
def State.withFetchWord (s : State) (nbits w : Nat) : State :=
  { s with inbox := { dest := s.cur, code := tableCode nbits w } :: s.inbox }

end Sys2Proof.Machine
end

