-- ==== Sys2Proof/Safety.lean ====
section
/-! DEFINITION. The terms claims use: what every unit keeps at every step, sequences of operations, and whole
transmissions and receptions. -/

namespace Sys2Proof

/-- The domain on which decoding an encoded telegram gives it back (41_codec R160 (a) to (e)). -/
abbrev Telegram.roundTrips (t : Telegram) : Prop :=
  (t.sourceId.toNat ≤ 0x7F ∧ t.destinationId.toNat ≤ 0x7F)
    ∧ ((t.operation = .write ∧ t.destinationId ≠ 0) ∨ (t.operation = .broadcast ∧ t.destinationId = 0)
      ∨ (t.operation = .read ∧ t.destinationId ≠ 0))
    ∧ (t.operation = .read → t.data.length = 1)
    ∧ (t.typeId ≠ 0x00FF ∨ ((t.operation = .write ∨ t.operation = .broadcast) ∧ t.data = []))
    ∧ t.operation ≠ .readWithData

end Sys2Proof

namespace Sys2Proof.Machine

/-! ## What a unit keeps -/

/-- The sum of `n` over the `Data(n)` of a queue (43_rx_framer R208). -/
def queued : List Event → Nat
  | [] => 0
  | .data n :: es => n + queued es
  | .brk :: es => queued es

/-- A queued `Data(n)` has `n` >= 1 (10_state R24). -/
def Event.ok : Event → Bool
  | .data n => decide (1 ≤ n)
  | .brk => true

/-- Every address of a byte array is below its size (20_memory R60). -/
def Memory.below (m : Memory) (size : Nat) : Bool := m.all fun c => decide (c.1 < size)

/-- The receive side within its bounds (R23, R24, R27). -/
abbrev Block.rxOk (p : Params) (n : Block) : Prop :=
  n.ring.length ≤ p.ringCap ∧ n.evq.length ≤ p.evqCap ∧ n.evq.all Event.ok = true
    ∧ Memory.wf n.rxBuf = true ∧ Memory.below n.rxBuf p.rxBufCap = true

/-- The transmit side within its bounds, with every byte to be sent in `TXBUF` (R30). -/
abbrev Block.txOk (p : Params) (n : Block) : Prop :=
  Memory.wf n.txBuf = true ∧ Memory.below n.txBuf p.txMaxLen = true ∧ n.txLen ≤ p.txMaxLen ∧ n.txIdx ≤ n.txLen
    ∧ ((n.txPhase = .byte ∨ n.txPhase = .gap) → n.txIdx < n.txLen)
    ∧ ((List.range n.txLen).all fun i => (Memory.read? n.txBuf i).isSome) = true

/-- What drives the line in each phase (R32, 44_tx_delay R233). -/
def Block.driveOk (n : Block) : Bool :=
  match n.txPhase with
  | .idle | .byte | .brkAssert => n.txd == .released
  | .brkHold => n.txd == .space
  | .gap =>
    match Memory.read? n.txBuf n.txIdx with
    | some b => n.txd == .char b
    | none => false

/-- The delay generator runs only in the phase that waits for it, with that phase's duration, so it is stopped whenever
it is started (R29, R31, 44_tx_delay R231). -/
def Block.delayOk (n : Block) : Bool :=
  match n.dly with
  | none => true
  | some d => n.txPhase == delayPhase d

/-- A callback runs only in a started loop context, and only when one is registered (R28, R204). -/
abbrev Block.loopOk (n : Block) : Prop := n.inCallback = true → n.listening = true ∧ n.cb.isSome = true

/-- At most eight data bits of a character are in reception (R35 (a)). -/
def Hidden.ok (h : Hidden) : Bool :=
  match h.shift with
  | none => true
  | some bits => decide (bits.length ≤ Config.dataBits)

/-- What a unit keeps at every step. -/
abbrev Block.Inv (p : Params) (n : Block) : Prop :=
  n.rxOk p ∧ n.txOk p ∧ n.driveOk = true ∧ n.delayOk = true ∧ n.loopOk ∧ n.hidden.ok = true

/-- What the machine keeps at every step: both units keep theirs and their names, the second exists exactly when
`N_INST` = 2 (45_system_ops R255), and the addressed unit exists. -/
abbrev State.Inv (s : State) : Prop :=
  (s.first.Inv s.params ∧ s.first.id = .first) ∧ (∀ n ∈ s.second, n.Inv s.params ∧ n.id = .second)
    ∧ s.second.isSome = s.params.forwarding ∧ s.here?.isSome = true

/-- No character and no event has been lost unnoticed: the bytes in `ring` are those counted and those still queued
(R208). -/
abbrev Block.counted (n : Block) : Prop :=
  n.condPending = false → n.ring.length = n.rxCount + queued n.evq

/-- A block in the phase between transmissions, with nothing received, counted or lost, its loop context free. -/
abbrev Block.listeningIdle (n : Block) : Prop :=
  n.loopFree = true ∧ n.ring = [] ∧ n.evq = [] ∧ n.condPending = false ∧ n.rxCount = 0

/-! ## Sequences of operations -/

/-- Operations performed one after the other on the addressed unit, stopping at the first that has no step. -/
def execAll : List Instr → State → Host.Outcome State Fault Refusal
  | [], s => .next s
  | i :: is, s =>
    match exec i s with
    | .next s' => execAll is s'
    | .fault e => .fault e
    | .refused r => .refused r

/-- The steps that send one byte (44_tx_delay R226, R227, R232). -/
def byteSteps : List Instr := [.txByte, .dlyExpire, .txGap]

/-- The steps that send the break (R228, R229, R232). -/
def breakSteps : List Instr := [.txBrkAssert, .dlyExpire, .txBrkRelease]

/-- The steps of a transmission of `k` bytes after TX.START (R29, R233). -/
def sendSteps : Nat → List Instr
  | 0 => breakSteps
  | k + 1 => byteSteps ++ sendSteps k

/-- The line events of a frame (R208). -/
def arrivals (bytes : List Byte) : List Instr := bytes.map Instr.lineChar ++ [.lineBreak]

/-- Bit times presented to a receiver one after the other: the last state and what was completed. -/
def listen : Hidden → List Bool → Hidden × List Heard
  | h, [] => (h, [])
  | h, v :: vs =>
    let r := listen (h.sample v).1 vs
    (r.1, if (h.sample v).2 = .nothing then r.2 else (h.sample v).2 :: r.2)

end Sys2Proof.Machine
end

