-- ==== Sys2Proof/Certificates/Slice0/Obligations.lean ====
section
/-! DEFINITION. The statements for the provers: the numbered rules of the spec that say what an operation or the machine
does. `s.here? = some n` says that the addressed unit exists and `n` is its tuple; `s.put m` is `s` with that tuple
replaced by `m`, so an equation `exec i s = .next (s.put m)` says what changes and that nothing else does. -/

open Sys2Proof Sys2Proof.Machine

/-! ## The CRC unit -/

/-- 40_crc R133, R135. CRC8.CLR and CRC8.RD complete in every state; after a clear, a read returns `CRC8_INIT`. -/
def Obligations.AccumulatorClearAndRead : Prop :=
  ∀ (s : State) (n : Block), s.here? = some n →
    exec .crc8Clr s = .next (s.put { n with crcAcc := s.params.crc8Init })
    ∧ exec .crc8Rd s = .next (s.put { n with out := n.out ++ [.ret (.byte n.crcAcc)] })
    ∧ execAll [.crc8Clr, .crc8Rd] s = .next (s.put { n with
        crcAcc := s.params.crc8Init, out := n.out ++ [.ret (.byte s.params.crc8Init)] })

/-- 40_crc R134. CRC8.UPD completes for every byte and accumulator, and streaming a buffer after CRC8.CLR leaves its
CRC-8 in the accumulator. -/
def Obligations.StreamingGivesTheBlockCrc : Prop :=
  ∀ (s : State) (n : Block), s.here? = some n →
    (∀ b : Byte, exec (.crc8Upd b) s = .next (s.put { n with crcAcc := crc8Step s.params n.crcAcc b }))
    ∧ ∀ buf : List Byte,
        execAll (.crc8Clr :: buf.map .crc8Upd) s = .next (s.put { n with crcAcc := crc8 s.params buf })

/-- 40_crc R136, R137. CRC8.BLK and CRC8.CHK complete and only return; CRC8.CHK compares the last byte with the CRC-8
of the bytes before it, and a length of 0 is refused. -/
def Obligations.BlockCrcAndCheckResults : Prop :=
  ∀ (s : State) (n : Block), s.here? = some n →
    (∀ buf : List Byte, exec (.crc8Blk buf) s =
      .next (s.put { n with out := n.out ++ [.ret (.byte (crc8 s.params buf))] }))
    ∧ (∀ (buf : List Byte) (c : Byte), exec (.crc8Chk (buf ++ [c]) (buf.length + 1)) s =
      .next (s.put { n with out := n.out ++ [.ret (.bool (c == crc8 s.params buf))] }))
    ∧ ∀ raw : List Byte, exec (.crc8Chk raw 0) s = .refused .operandRange

/-- 40_crc R139 (a), (b), (c), for every table. -/
def Obligations.CrcAppendLaws : Prop :=
  ∀ (p : Params) (buf : List Byte),
    (∀ b : Byte, crc8 p (buf ++ [b]) = p.crc8Table.get (crc8 p buf).toFin ^^^ b)
    ∧ crcHolds p (buf ++ [crc8 p buf]) = true
    ∧ ∀ b d : Byte, d ≠ 0 → crc8 p (buf ++ [b ^^^ d]) = crc8 p (buf ++ [b]) ^^^ d
        ∧ crc8 p (buf ++ [b ^^^ d]) ≠ crc8 p (buf ++ [b])

/-- 40_crc R139 (d): when the table is a permutation, changing one covered byte of a frame that passes makes CRC8.CHK
return false. -/
def Obligations.OneChangedByteIsDetected : Prop :=
  ∀ (s : State) (n : Block) (pre post : List Byte) (x y c : Byte), s.here? = some n →
    (∀ a b : Byte, s.params.crc8Table.get a.toFin = s.params.crc8Table.get b.toFin → a = b) → x ≠ y →
    crc8 s.params (pre ++ x :: post) ≠ crc8 s.params (pre ++ y :: post)
    ∧ (crcHolds s.params (pre ++ x :: post ++ [c]) = true →
      exec (.crc8Chk (pre ++ y :: post ++ [c]) (pre.length + post.length + 2)) s =
        .next (s.put { n with out := n.out ++ [.ret (.bool false)] }))

/-! ## The codec -/

/-- 41_codec R150, R151. DECODE of a legacy frame whose CRC holds: byte 2 is not the marker, or there is no payload. The
mask of the destination is the decision D6 of the spec. -/
def Obligations.DecodeLegacyFrame : Prop :=
  ∀ (s : State) (n : Block) (b0 b1 b2 b3 : Byte) (data : List Byte), s.here? = some n → (b2 ≠ 0xFF ∨ data = []) →
    exec (.decode ([b0, b1, b2, b3] ++ data ++ [crc8 s.params ([b0, b1, b2, b3] ++ data)]) (data.length + 5)) s =
      .next (s.put { n with out := n.out ++ [.ret (.telegram
        { operation := if b1 = 0x00 then .broadcast else if 0x80 ≤ b1.toNat then .read else .write
          sourceId := b0 &&& 0x7F
          destinationId := b1 &&& 0x7F
          typeId := BitVec.ofNat 16 b2.toNat
          offset := b3
          data := data })] })

/-- 41_codec R152. DECODE of an extended read whose CRC holds: the type follows the requested length, bytes after it are
ignored, and a frame of 6 or 7 bytes is too short. -/
def Obligations.DecodeExtendedRead : Prop :=
  ∀ (s : State) (n : Block) (b0 b1 b3 : Byte), s.here? = some n → 0x80 ≤ b1.toNat →
    (∀ (req hi lo : Byte) (more : List Byte),
      exec (.decode ([b0, b1, 0xFF, b3, req, hi, lo] ++ more
          ++ [crc8 s.params ([b0, b1, 0xFF, b3, req, hi, lo] ++ more)]) (more.length + 8)) s =
        .next (s.put { n with out := n.out ++ [.ret (.telegram
          { operation := .read
            sourceId := b0 &&& 0x7F
            destinationId := b1 &&& 0x7F
            typeId := BitVec.ofNat 16 (hi.toNat * 256 + lo.toNat + 256)
            offset := b3
            data := [req] })] }))
    ∧ ∀ body : List Byte, (body.length = 1 ∨ body.length = 2) →
      exec (.decode ([b0, b1, 0xFF, b3] ++ body ++ [crc8 s.params ([b0, b1, 0xFF, b3] ++ body)]) (body.length + 5)) s =
        .next (s.put { n with out := n.out ++ [.ret .tooShort] })

/-- 41_codec R153. DECODE of an extended write or broadcast whose CRC holds; a frame of 6 bytes is too short. -/
def Obligations.DecodeExtendedWrite : Prop :=
  ∀ (s : State) (n : Block) (b0 b1 b3 : Byte), s.here? = some n → b1.toNat < 0x80 →
    (∀ (hi lo : Byte) (data : List Byte),
      exec (.decode ([b0, b1, 0xFF, b3, hi, lo] ++ data
          ++ [crc8 s.params ([b0, b1, 0xFF, b3, hi, lo] ++ data)]) (data.length + 7)) s =
        .next (s.put { n with out := n.out ++ [.ret (.telegram
          { operation := if b1 = 0x00 then .broadcast else .write
            sourceId := b0 &&& 0x7F
            destinationId := b1
            typeId := BitVec.ofNat 16 (hi.toNat * 256 + lo.toNat + 256)
            offset := b3
            data := data })] }))
    ∧ ∀ body : Byte, exec (.decode [b0, b1, 0xFF, b3, body, crc8 s.params [b0, b1, 0xFF, b3, body]] 6) s =
        .next (s.put { n with out := n.out ++ [.ret .tooShort] })

/-- 41_codec R163, 60_exceptions R266, R267, R277 (d). Fewer than 5 bytes are too short whatever they are; with 5 or
more, a wrong CRC is a checksum error, also in a frame too short for its layout; with the CRC right, an extended frame
too short for its layout (a read below 8 bytes, any below 7) is too short, and every other frame is a telegram. Nothing
else changes. -/
def Obligations.DecodeFailureOrder : Prop :=
  ∀ (s : State) (n : Block), s.here? = some n →
    (∀ raw : List Byte, raw.length < 5 →
      exec (.decode raw raw.length) s = .next (s.put { n with out := n.out ++ [.ret .tooShort] }))
    ∧ ∀ buf : List Byte, 4 ≤ buf.length →
      let short : Prop := 5 ≤ buf.length ∧ buf.getD 2 0 = 0xFF
        ∧ ((0x80 ≤ (buf.getD 1 0).toNat ∧ buf.length < 7) ∨ buf.length < 6)
      let frame : List Byte := buf ++ [crc8 s.params buf]
      (∀ c : Byte, c ≠ crc8 s.params buf → exec (.decode (buf ++ [c]) (buf.length + 1)) s =
        .next (s.put { n with out := n.out ++ [.ret .checksumError] }))
      ∧ (short → exec (.decode frame (buf.length + 1)) s = .next (s.put { n with out := n.out ++ [.ret .tooShort] }))
      ∧ (¬short → ∃ t : Telegram,
          exec (.decode frame (buf.length + 1)) s = .next (s.put { n with out := n.out ++ [.ret (.telegram t)] }))

/-- 30_encoding R116, R117, 41_codec R150. DECODE completes on every frame. That a decode row is an operation which makes
DECODE's CRC check and answers what DECODE answers is the model's choice (log 16), and that it is refused on a frame that
does not select it the model's deduction (log 14). -/
def Obligations.DecodeRowsAgreeWithDecode : Prop :=
  ∀ (s : State) (n : Block) (raw : List Byte), s.here? = some n →
    let ext : Prop := 6 ≤ raw.length ∧ raw.getD 2 0 = 0xFF
    let read : Prop := 0x80 ≤ (raw.getD 1 0).toNat
    ∃ r : Result,
      exec (.decode raw raw.length) s = .next (s.put { n with out := n.out ++ [.ret r] })
      ∧ (ext ∧ read → exec (.decXrd raw) s = .next (s.put { n with out := n.out ++ [.ret r] }))
      ∧ (ext ∧ ¬read → exec (.decXwr raw) s = .next (s.put { n with out := n.out ++ [.ret r] }))
      ∧ (5 ≤ raw.length ∧ ¬ext → exec (.decLeg raw) s = .next (s.put { n with out := n.out ++ [.ret r] }))
      ∧ (raw.length < 5 → exec (.decTooshort raw) s = .next (s.put { n with out := n.out ++ [.ret r] }))
      ∧ (¬(ext ∧ read) → exec (.decXrd raw) s = .refused .rowNotSelected)
      ∧ (¬(ext ∧ ¬read) → exec (.decXwr raw) s = .refused .rowNotSelected)
      ∧ (¬(5 ≤ raw.length ∧ ¬ext) → exec (.decLeg raw) s = .refused .rowNotSelected)
      ∧ (5 ≤ raw.length → exec (.decTooshort raw) s = .refused .rowNotSelected)

/-- 41_codec R154 to R158. ENCODE always completes, with the frame of the layout the telegram selects. -/
def Obligations.EncodeFrameLayouts : Prop :=
  ∀ (s : State) (n : Block) (op : Operation) (src dst off : Byte) (ty : Half) (data : List Byte), s.here? = some n →
    let t : Telegram := { operation := op, sourceId := src, destinationId := dst, typeId := ty, offset := off, data := data }
    let isRead : Prop := op = .read ∨ op = .readWithData
    let b1 : Byte := if isRead ∧ dst ≠ 0 then dst ||| 0x80 else dst
    let lo : Byte := BitVec.ofNat 8 ty.toNat
    let hi : Byte := BitVec.ofNat 8 (ty.toNat / 256 - 1)
    let body : List Byte :=
      if 0xFF < ty.toNat then (if isRead then [data.headD 0, hi, lo] else [hi, lo] ++ data)
      else (if isRead then [data.headD 0] else data)
    let f : List Byte := [src ||| 0x80, b1, if 0xFF < ty.toNat then 0xFF else lo, off] ++ body
    exec (.encode t) s = .next (s.put { n with out := n.out ++ [.ret (.bytes (f ++ [crc8 s.params f]))] })

/-- 30_encoding R116, 41_codec R154. ENCODE completes on every telegram. That an encode row is an operation which answers
the whole frame of ENCODE is the model's choice (log 16; R155 to R158 give the body), and that it is refused on a
telegram that does not select it the model's deduction (log 14). -/
def Obligations.EncodeRowsAgreeWithEncode : Prop :=
  ∀ (s : State) (n : Block) (t : Telegram), s.here? = some n →
    let ext : Prop := 0xFF < t.typeId.toNat
    let read : Prop := t.operation = .read ∨ t.operation = .readWithData
    ∃ bs : List Byte,
      exec (.encode t) s = .next (s.put { n with out := n.out ++ [.ret (.bytes bs)] })
      ∧ (¬ext ∧ read → exec (.encLegRd t) s = .next (s.put { n with out := n.out ++ [.ret (.bytes bs)] }))
      ∧ (¬ext ∧ ¬read → exec (.encLegWr t) s = .next (s.put { n with out := n.out ++ [.ret (.bytes bs)] }))
      ∧ (ext ∧ read → exec (.encXRd t) s = .next (s.put { n with out := n.out ++ [.ret (.bytes bs)] }))
      ∧ (ext ∧ ¬read → exec (.encXWr t) s = .next (s.put { n with out := n.out ++ [.ret (.bytes bs)] }))
      ∧ (¬(¬ext ∧ read) → exec (.encLegRd t) s = .refused .rowNotSelected)
      ∧ (¬(¬ext ∧ ¬read) → exec (.encLegWr t) s = .refused .rowNotSelected)
      ∧ (¬(ext ∧ read) → exec (.encXRd t) s = .refused .rowNotSelected)
      ∧ (¬(ext ∧ ¬read) → exec (.encXWr t) s = .refused .rowNotSelected)

/-- 41_codec R160. Decoding an encoded telegram gives it back exactly on the domain of R160; a read outside (c) or (e)
comes back as the read of its requested length. -/
def Obligations.TelegramRoundTrip : Prop :=
  ∀ (s : State) (n : Block) (t : Telegram), s.here? = some n →
    (exec (.decode (encodeFrame s.params t) (encodeFrame s.params t).length) s =
        .next (s.put { n with out := n.out ++ [.ret (.telegram t)] }) ↔ t.roundTrips)
    ∧ (t.sourceId.toNat ≤ 0x7F → t.destinationId.toNat ≤ 0x7F → t.destinationId ≠ 0 → t.typeId ≠ 0x00FF →
      (t.operation = .read ∨ t.operation = .readWithData) →
      exec (.decode (encodeFrame s.params t) (encodeFrame s.params t).length) s =
        .next (s.put { n with out := n.out
          ++ [.ret (.telegram { t with operation := .read, data := [t.data.headD 0] })] }))

/-- 41_codec R159. CLASSIFY completes for every length, by length alone. That `MIN_TELEGRAM_LEN` is held at 7, its value in
00_scope R6, is the model's choice (log 4). -/
def Obligations.ClassifyByLength : Prop :=
  ∀ (s : State) (n : Block) (len : Nat), s.here? = some n →
    exec (.classify len) s = .next (s.put { n with out := n.out ++ [.ret (.frameClass
      (if len = 1 ∨ len = 2 then .poll else if 7 ≤ len then .telegram else .other))] })

/-! ## Field extraction -/

/-- 42_fields R180. FX.LOCATE completes for every position and width from 1: the local index, or absent. -/
def Obligations.LocateField : Prop :=
  ∀ (s : State) (n : Block) (t : Telegram) (pos w : Nat), s.here? = some n → 1 ≤ w →
    exec (.fxLocate t pos w) s = .next (s.put { n with out := n.out ++ [.ret
      (if t.offset.toNat ≤ pos ∧ pos + w ≤ t.offset.toNat + t.data.length then .index (pos - t.offset.toNat)
       else .absent)] })

/-- 42_fields R181, 20_memory R61. FX.U of a field the telegram carries is its big-endian value. -/
def Obligations.UnsignedField : Prop :=
  ∀ (s : State) (n : Block) (t : Telegram) (pre field post : List Byte), s.here? = some n →
    t.data = pre ++ field ++ post → 1 ≤ field.length → field.length ≤ 4 →
    ∃ v : Quad, exec (.fxU t (t.offset.toNat + pre.length) field.length) s =
        .next (s.put { n with out := n.out ++ [.ret (.unsigned v)] })
      ∧ (∀ a, field = [a] → v.toNat = a.toNat)
      ∧ (∀ a b, field = [a, b] → v.toNat = a.toNat * 256 + b.toNat)
      ∧ (∀ a b c, field = [a, b, c] → v.toNat = a.toNat * 65536 + b.toNat * 256 + c.toNat)
      ∧ (∀ a b c d, field = [a, b, c, d] →
          v.toNat = a.toNat * 16777216 + b.toNat * 65536 + c.toNat * 256 + d.toNat)

/-- 42_fields R182. FX.S of a field the telegram carries is FX.U read as two's complement at the field's width. -/
def Obligations.SignedField : Prop :=
  ∀ (s : State) (n : Block) (t : Telegram) (pre field post : List Byte), s.here? = some n →
    t.data = pre ++ field ++ post → 1 ≤ field.length → field.length ≤ 4 →
    ∃ u v : Quad,
      exec (.fxU t (t.offset.toNat + pre.length) field.length) s =
        .next (s.put { n with out := n.out ++ [.ret (.unsigned u)] })
      ∧ exec (.fxS t (t.offset.toNat + pre.length) field.length) s =
        .next (s.put { n with out := n.out ++ [.ret (.signed v)] })
      ∧ v.toInt = if u.toNat < 2 ^ (8 * field.length - 1) then (u.toNat : Int)
          else (u.toNat : Int) - 2 ^ (8 * field.length)

/-- 42_fields R183. FX.S24 completes in every state and is FX.S at width 3. -/
def Obligations.Signed24IsSignedOfThreeBytes : Prop :=
  ∀ (s : State) (n : Block) (t : Telegram) (pos : Nat), s.here? = some n →
    exec (.fxS24 t pos) s = exec (.fxS t pos 3) s
    ∧ ∃ r, exec (.fxS24 t pos) s = .next (s.put { n with out := n.out ++ [.ret r] })

/-- 42_fields R184. FX.BIT of a position the telegram carries is that bit, 0 the least significant; else absent. -/
def Obligations.BitField : Prop :=
  ∀ (s : State) (n : Block) (t : Telegram) (pos p : Nat), s.here? = some n → p ≤ 7 →
    exec (.fxBit t pos p) s = .next (s.put { n with out := n.out ++ [.ret
      (if h : t.offset.toNat ≤ pos ∧ pos - t.offset.toNat < t.data.length then
        .bool (decide ((t.data[pos - t.offset.toNat]'h.2).toNat / 2 ^ p % 2 = 1))
       else .absent)] })

/-- 42_fields R181 to R183, R185. A field that does not lie wholly inside the payload is absent, and nothing else
happens. -/
def Obligations.FieldOutsideIsAbsent : Prop :=
  ∀ (s : State) (n : Block) (t : Telegram) (pos w : Nat), s.here? = some n → 1 ≤ w → w ≤ 4 →
    (pos < t.offset.toNat ∨ t.offset.toNat + t.data.length < pos + w) →
    exec (.fxU t pos w) s = .next (s.put { n with out := n.out ++ [.ret .absent] })
    ∧ exec (.fxS t pos w) s = .next (s.put { n with out := n.out ++ [.ret .absent] })
    ∧ (w = 3 → exec (.fxS24 t pos) s = .next (s.put { n with out := n.out ++ [.ret .absent] }))

/-- 60_exceptions R274, 93 U8. An operand outside its range, or a length of DECODE that is not the buffer's, is refused. The
refusals of FX.LOCATE with width 0, of CRC8.CHK with a length that is not the buffer's and of BRK of ten bit times or
fewer are the model's deduction (log 14). -/
def Obligations.OperandRangeRefusals : Prop :=
  ∀ (s : State) (n : Block) (t : Telegram) (pos w p len : Nat) (raw : List Byte), s.here? = some n →
    (4 < w → exec (.fxU t pos w) s = .refused .operandRange ∧ exec (.fxS t pos w) s = .refused .operandRange)
    ∧ exec (.fxU t pos 0) s = .refused .operandRange
    ∧ exec (.fxS t pos 0) s = .refused .operandRange
    ∧ exec (.fxLocate t pos 0) s = .refused .operandRange
    ∧ (7 < p → exec (.fxBit t pos p) s = .refused .operandRange)
    ∧ (len ≠ raw.length → exec (.decode raw len) s = .refused .lengthMismatch)
    ∧ (len ≠ raw.length → len ≠ 0 → exec (.crc8Chk raw len) s = .refused .lengthMismatch)
    ∧ (len ≤ 10 → exec (.brk len) s = .refused .operandRange)

/-! ## The line receiver -/

/-- 43_rx_framer R195, R197, R198. LINE.CHAR completes in every state. With `ring` full the character is lost and
`cond_ring` set; with `evq` full it is kept and `cond_queue` set; else it is kept, and counted by an event of its own or
by the newest `Data`, which outcome 0 and outcome 1 of a supplied choice select (log 5, log 22). -/
def Obligations.CharacterReceived : Prop :=
  ∀ (s : State) (n : Block) (b : Byte), s.here? = some n →
    (s.params.ringCap ≤ n.ring.length → exec (.lineChar b) s = .next (s.put { n with condRing := true }))
    ∧ (n.ring.length < s.params.ringCap →
      (s.params.evqCap ≤ n.evq.length →
        exec (.lineChar b) s = .next (s.put { n with ring := n.ring ++ [b], condQueue := true }))
      ∧ (n.evq.length < s.params.evqCap →
        ((∀ k, n.evq.getLast? ≠ some (.data k)) →
          exec (.lineChar b) s = .next (s.put { n with ring := n.ring ++ [b], evq := n.evq ++ [.data 1] }))
        ∧ ∀ (pre : List Event) (k : Nat), n.evq = pre ++ [.data k] →
          (∃ (cs : List Nat) (d : Nat) (es : List Event), (es = pre ++ [.data k, .data 1] ∨ es = pre ++ [.data (k + 1)])
            ∧ exec (.lineChar b) s =
              .next (s.put { n with ring := n.ring ++ [b], evq := es, choices := cs, drawn := d }))
          ∧ ∀ cs : List Nat,
            exec (.lineChar b) (s.put { n with choices := 0 :: cs }) = .next (s.put { n with
              ring := n.ring ++ [b], evq := pre ++ [.data k, .data 1], choices := cs })
            ∧ exec (.lineChar b) (s.put { n with choices := 1 :: cs }) = .next (s.put { n with
              ring := n.ring ++ [b], evq := pre ++ [.data (k + 1)], choices := cs })))

/-- 43_rx_framer R196, R198. LINE.BREAK completes in every state: nothing enters `ring`. -/
def Obligations.BreakReceived : Prop :=
  ∀ (s : State) (n : Block), s.here? = some n →
    (n.evq.length < s.params.evqCap → exec .lineBreak s = .next (s.put { n with evq := n.evq ++ [.brk] }))
    ∧ (s.params.evqCap ≤ n.evq.length → exec .lineBreak s = .next (s.put { n with condQueue := true }))

/-- 30_encoding R91, R92, R98, R111, 10_state R35, 43_rx_framer D29. A whole character in format CH is LINE.CHAR of its
byte, a low period of more than ten bit times is one LINE.BREAK however long it is, a poll frame is LINE.CHAR of its one
or two bytes and the LINE.BREAK that ends it. That these rows are operations, and that they end the character in
reception (`hidden` becomes idle), is the model's choice (log 16). All complete in every state. -/
def Obligations.WireCharacterAndBreak : Prop :=
  ∀ (s : State) (n : Block) (b c : Byte) (k : Nat), s.here? = some n → 10 < k →
    (∃ t, exec (.ch b) s = .next t ∧ exec (.lineChar b) (s.put { n with hidden := .idle }) = .next t)
    ∧ (∃ t, exec (.brk k) s = .next t ∧ exec .lineBreak (s.put { n with hidden := .idle }) = .next t)
    ∧ (∃ t, exec (.poll1 b) s = .next t
      ∧ execAll [.lineChar b, .lineBreak] (s.put { n with hidden := .idle }) = .next t)
    ∧ ∃ t, exec (.poll2 b c) s = .next t
      ∧ execAll [.lineChar b, .lineChar c, .lineBreak] (s.put { n with hidden := .idle }) = .next t

/-- 10_state R35, 30_encoding R91, R92, 93 U6. Bit times of an idle receiver: a start bit, eight data bits least
significant first and a stop bit complete a character; more than ten low bit times, then high, complete a break; a low
stop bit and high again too soon is a line error. A step that presents one bit time performs the CH or BRK it completes;
on a line error it does nothing or performs LINE.CHAR of a byte, any byte, and never a break. The sampling once per bit
time and the end of a low period as the line error are the model's (log 9), the choice is a free value (log 5). -/
def Obligations.BitTimesCompleteCharactersAndBreaks : Prop :=
  (∀ b : Byte,
    let bits : List Bool := [b.getLsbD 0, b.getLsbD 1, b.getLsbD 2, b.getLsbD 3, b.getLsbD 4, b.getLsbD 5, b.getLsbD 6,
      b.getLsbD 7]
    listen Hidden.idle ([false] ++ bits ++ [true]) = (Hidden.idle, [.char b])
    ∧ listen Hidden.idle ([false] ++ bits ++ [false, true]) = (Hidden.idle, [.error]))
    ∧ (∀ k : Nat, 10 < k → listen Hidden.idle (List.replicate k false ++ [true]) = (Hidden.idle, [.brk k]))
    ∧ (∀ (h : Hidden) (high : Bool),
      ((h.sample high).2 = .error ↔ high = true ∧ h.shift = none ∧ 1 ≤ h.lowTime ∧ h.lowTime ≤ 10)
      ∧ ∀ k, (h.sample high).2 = .brk k → 10 < k ∧ k = h.lowTime)
    ∧ ∀ (s : State) (n : Block) (id : UnitId) (high : Bool) (es : List Entry), s.unit? id = some n →
      s.inbox = { dest := id, code := .level high } :: es →
      let s' : State := { s with cur := id, inbox := es }
      let n' : Block := { n with hidden := (n.hidden.sample high).1 }
      ((n.hidden.sample high).2 = .nothing → step s = .next (s'.put n'))
      ∧ (∀ b, (n.hidden.sample high).2 = .char b → step s = exec (.ch b) (s'.put n'))
      ∧ (∀ k, (n.hidden.sample high).2 = .brk k → step s = exec (.brk k) (s'.put n'))
      ∧ ((n.hidden.sample high).2 = .error →
        (∃ (cs : List Nat) (d : Nat), step s = .next (s'.put { n' with choices := cs, drawn := d })
          ∨ ∃ b : Byte, step s = exec (.lineChar b) (s'.put { n' with choices := cs, drawn := d }))
        ∧ (∀ cs : List Nat, n.choices = 0 :: cs → step s = .next (s'.put { n' with choices := cs }))
        ∧ ∀ (b : Byte) (cs : List Nat), n.choices = (b.toNat + 1) :: cs →
            step s = exec (.lineChar b) (s'.put { n' with choices := cs }))

/-- 20_memory R75, 43_rx_framer R209. The line presents the echo of the block's own transmission to its receiver, oldest
first, as LINE.CHAR and LINE.BREAK; with none in flight there is nothing to present (log 10). -/
def Obligations.EchoIsReceivedInOrder : Prop :=
  ∀ (s : State) (n : Block) (id : UnitId) (es : List Entry), s.unit? id = some n →
    s.inbox = { dest := id, code := .echo } :: es →
    let s' : State := { s with cur := id, inbox := es }
    (∀ (b : Byte) (rest : List LineEvent), n.echo = .char b :: rest →
      step s = exec (.lineChar b) (s'.put { n with echo := rest }))
    ∧ (∀ rest : List LineEvent, n.echo = .brk :: rest → step s = exec .lineBreak (s'.put { n with echo := rest }))
    ∧ (n.echo = [] → step s = .refused .noEcho)

/-! ## The loop context -/

/-- 43_rx_framer R199. When the loop context is free and something is pending or the transmitter is idle, RX.WAIT
completes, restarts the quiet timer, and is exactly one of the five reactions, each only when it is possible; with
nothing pending it may also go on waiting, `T_QUIET` not having passed (log 23). With nothing pending while a
transmission of another context runs it goes on waiting, or selects the timeout, which is then refused (log 13). -/
def Obligations.WaitSelectsOneReaction : Prop :=
  ∀ (s : State) (n : Block), s.here? = some n →
    n.listening = true → n.inCallback = false → (n.txCtx = .loop → n.txPhase = .idle) →
    ((n.txPhase = .idle ∨ n.evq ≠ [] ∨ n.condRing = true ∨ n.condQueue = true) →
      ∃ (t : State) (cs : List Nat) (d : Nat), exec .rxWait s = .next t ∧
        let m : Block := { n with quiet := .waiting, choices := cs, drawn := d }
        (n.condRing = true ∧ exec .rxEvRingovf (s.put m) = .next t)
        ∨ (n.condQueue = true ∧ exec .rxEvQfull (s.put m) = .next t)
        ∨ (∃ k es, n.evq = .data k :: es ∧ exec (.rxEvData k) (s.put { m with evq := es }) = .next t)
        ∨ (∃ es, n.evq = .brk :: es ∧ exec .rxEvBreak (s.put { m with evq := es }) = .next t)
        ∨ (n.evq = [] ∧ n.condRing = false ∧ n.condQueue = false
            ∧ (t = s.put m ∨ exec .rxEvTimeout (s.put m) = .next t)))
    ∧ (n.txPhase ≠ .idle → n.evq = [] → n.condRing = false → n.condQueue = false →
      (∃ (cs : List Nat) (d : Nat),
        exec .rxWait s = .next (s.put { n with quiet := .waiting, choices := cs, drawn := d }))
      ∨ exec .rxWait s = .refused .txBusy)

/-- 43_rx_framer R199, R213, 92 D26, D30. Every possible reaction is admitted, whatever else is pending: some supplied
choice makes RX.WAIT take it (log 5). The timeout is admitted whenever nothing is pending, also while a transmission of
another context runs, where it is refused (log 13); so is going on waiting (log 23). -/
def Obligations.EveryReactionIsAdmitted : Prop :=
  ∀ (s : State) (n : Block), s.here? = some n →
    n.listening = true → n.inCallback = false → (n.txCtx = .loop → n.txPhase = .idle) →
    let m : Block := { n with quiet := .waiting, choices := [] }
    (n.condRing = true → ∃ cs, exec .rxWait (s.put { n with choices := cs }) = exec .rxEvRingovf (s.put m))
    ∧ (n.condQueue = true → ∃ cs, exec .rxWait (s.put { n with choices := cs }) = exec .rxEvQfull (s.put m))
    ∧ (∀ k es, n.evq = .data k :: es →
        ∃ cs, exec .rxWait (s.put { n with choices := cs }) = exec (.rxEvData k) (s.put { m with evq := es }))
    ∧ (∀ es, n.evq = .brk :: es →
        ∃ cs, exec .rxWait (s.put { n with choices := cs }) = exec .rxEvBreak (s.put { m with evq := es }))
    ∧ (n.evq = [] → n.condRing = false → n.condQueue = false →
        (∃ cs, exec .rxWait (s.put { n with choices := cs }) = exec .rxEvTimeout (s.put m))
        ∧ ∃ cs, exec .rxWait (s.put { n with choices := cs }) = .next (s.put m))

/-- 43_rx_framer R200. A received-byte-count event adds to `rx_count`, which has no upper bound, and nothing else
changes; the count is over-long exactly when it passes `RX_BUF_CAP`. That the step can be issued by itself, and that a
count of 0 adds 0, is the model's choice (log 12). -/
def Obligations.DataEventCounts : Prop :=
  ∀ (s : State) (n : Block) (k : Nat), s.here? = some n →
    n.listening = true → n.inCallback = false → (n.txCtx = .loop → n.txPhase = .idle) →
    exec (.rxEvData k) s = .next (s.put { n with rxCount := n.rxCount + k })
    ∧ (Block.rxOverlong s.params { n with rxCount := n.rxCount + k } = true ↔ s.params.rxBufCap < n.rxCount + k)

/-- 43_rx_framer R201, R204. A break with a frame that fits: the counted bytes leave `ring` in order, stand in `RXBUF`
and, when a callback is registered, are delivered with their class; without one the frame is dropped. -/
def Obligations.BreakDeliversFrame : Prop :=
  ∀ (s : State) (n : Block), s.here? = some n →
    n.listening = true → n.inCallback = false → (n.txCtx = .loop → n.txPhase = .idle) →
    n.rxCount ≤ s.params.rxBufCap →
    let k := min n.rxCount n.ring.length
    ∃ buf : Memory,
      (∀ i, i < k → Memory.read? buf i = n.ring[i]?)
      ∧ (∀ i, k ≤ i → Memory.read? buf i = Memory.read? n.rxBuf i)
      ∧ (∀ f, n.cb = some f → exec .rxEvBreak s = .next (s.put { n with
          rxCount := 0, ring := n.ring.drop k, rxBuf := buf, inCallback := true
          out := n.out ++ [.frame (n.ring.take k) k
            (if k = 1 ∨ k = 2 then .poll else if 7 ≤ k then .telegram else .other)] }))
      ∧ (n.cb = none → exec .rxEvBreak s = .next (s.put { n with rxCount := 0, ring := n.ring.drop k, rxBuf := buf }))

/-- 43_rx_framer R202, 60_exceptions R269. A break with a frame that does not fit: the counted bytes leave `ring`, one
warning with the count, no delivery. -/
def Obligations.OverlongFrameIsDiscarded : Prop :=
  ∀ (s : State) (n : Block), s.here? = some n →
    n.listening = true → n.inCallback = false → (n.txCtx = .loop → n.txPhase = .idle) →
    s.params.rxBufCap < n.rxCount →
    exec .rxEvBreak s = .next (s.put { n with
      rxCount := 0, ring := n.ring.drop (min n.rxCount n.ring.length)
      out := n.out ++ [.warn (.frameTooLong n.rxCount)] })

/-- 43_rx_framer R205, R206. The reaction to a pending condition: one warning, then the flush. -/
def Obligations.OverflowReactions : Prop :=
  ∀ (s : State) (n : Block), s.here? = some n →
    n.listening = true → n.inCallback = false → (n.txCtx = .loop → n.txPhase = .idle) →
    (n.condRing = true → exec .rxEvRingovf s = .next (s.put { n with
      ring := [], evq := [], condRing := false, condQueue := false, rxCount := 0, out := n.out ++ [.warn .ringOverflow] }))
    ∧ (n.condQueue = true → exec .rxEvQfull s = .next (s.put { n with
      ring := [], evq := [], condRing := false, condQueue := false, rxCount := 0, out := n.out ++ [.warn .queueFull] }))

/-- 43_rx_framer R207. The quiet timeout: a warning, the flush, and a break of the loop context begins. -/
def Obligations.QuietTimeoutResynchronises : Prop :=
  ∀ (s : State) (n : Block), s.here? = some n →
    n.listening = true → n.inCallback = false → n.evq = [] → n.condRing = false → n.condQueue = false →
    n.txPhase = .idle →
    exec .rxEvTimeout s = .next (s.put { n with
      ring := [], rxCount := 0, out := n.out ++ [.warn .quietTimeout]
      txLen := 0, txIdx := 0, txCtx := .loop, txPhase := .brkAssert })

/-- 43_rx_framer R204, 30_encoding R98. RX.DELIVER hands a frame to the registered callback with its length and class and
sets `in_callback`; without a callback nothing happens. A poll frame received by an idle listening block with a callback,
within the capacities, is handed over as it is, with class POLL, by waits of the loop context. That RX.DELIVER can be
issued by itself, and that POLL1 and POLL2 are operations, is the model's choice (log 12, log 16). -/
def Obligations.FrameIsHandedToTheHost : Prop :=
  ∀ (s : State) (n : Block) (frame : List Byte) (b0 b1 : Byte), s.here? = some n →
    n.listening = true → n.inCallback = false → (n.txCtx = .loop → n.txPhase = .idle) →
    (∀ f, n.cb = some f →
      exec (.rxDeliver frame) s = .next (s.put { n with inCallback := true, out := n.out ++ [.frame frame frame.length
        (if frame.length = 1 ∨ frame.length = 2 then .poll else if 7 ≤ frame.length then .telegram else .other)] })
      ∧ (n.listeningIdle →
        (2 ≤ s.params.evqCap → ∃ (k : Nat) (m : Block), k ≤ 2
          ∧ execAll (.poll1 b0 :: List.replicate k .rxWait) s = .next (s.put m)
          ∧ m.out = n.out ++ [.frame [b0] 1 .poll] ∧ m.inCallback = true ∧ m.ring = [] ∧ m.evq = [] ∧ m.rxCount = 0)
        ∧ (2 ≤ s.params.ringCap → 3 ≤ s.params.evqCap → ∃ (k : Nat) (m : Block), k ≤ 3
          ∧ execAll (.poll2 b0 b1 :: List.replicate k .rxWait) s = .next (s.put m)
          ∧ m.out = n.out ++ [.frame [b0, b1] 2 .poll] ∧ m.inCallback = true ∧ m.ring = [] ∧ m.evq = []
          ∧ m.rxCount = 0)))
    ∧ (n.cb = none → exec (.rxDeliver frame) s = .next (s.put n))

/-- 43_rx_framer R210. CB.RETURN clears `in_callback`, unless the callback's own transmission is still in progress. -/
def Obligations.CallbackReturns : Prop :=
  ∀ (s : State) (n : Block), s.here? = some n →
    (n.inCallback = true → (n.txCtx = .loop → n.txPhase = .idle) →
      exec .cbReturn s = .next (s.put { n with inCallback := false }))
    ∧ (n.inCallback = true → n.txCtx = .loop → n.txPhase ≠ .idle → exec .cbReturn s = .refused .heldByTransmission)
    ∧ (n.inCallback = false → exec .cbReturn s = .refused .notInCallback)

/-- 43_rx_framer R199, R199 (d), 44_tx_delay R236, 60_exceptions R274, R279. Before LISTEN.START, during a callback and
during a transmission of its own the loop context takes no step; RX.EV.RINGOVF, RX.EV.QFULL and RX.EV.TIMEOUT also need
their cause. That this enables the RX.EV steps and RX.DELIVER issued by themselves is the model's choice (log 12), and
RX.EV.TIMEOUT is refused as busy while a transmission of another context runs (log 13). -/
def Obligations.LoopContextIsHeldBack : Prop :=
  ∀ (s : State) (n : Block) (i : Instr), s.here? = some n →
    (i = .rxWait ∨ (∃ k, i = .rxEvData k) ∨ i = .rxEvBreak ∨ i = .rxEvRingovf ∨ i = .rxEvQfull ∨ i = .rxEvTimeout
      ∨ ∃ f, i = .rxDeliver f) →
    ((n.listening = false ∨ n.inCallback = true ∨ (n.txCtx = .loop ∧ n.txPhase ≠ .idle)) →
      exec i s = .refused .loopNotFree)
    ∧ (n.listening = true → n.inCallback = false → (n.txCtx = .loop → n.txPhase = .idle) →
      (i = .rxEvRingovf → n.condRing = false → exec i s = .refused .noCondition)
      ∧ (i = .rxEvQfull → n.condQueue = false → exec i s = .refused .noCondition)
      ∧ (i = .rxEvTimeout → (n.evq ≠ [] ∨ n.condRing = true ∨ n.condQueue = true) → exec i s = .refused .notQuiet)
      ∧ (i = .rxEvTimeout → n.evq = [] → n.condRing = false → n.condQueue = false → n.txPhase ≠ .idle →
          exec i s = .refused .txBusy))

/-! ## The transmit sequencer and the delay generator -/

/-- 44_tx_delay R225. TX.START of 1 to `TX_MAX_LEN` bytes loads `TXBUF` from address 0 and every other address reads as
before; an empty or too long buffer returns false and changes nothing else. -/
def Obligations.TransmissionStarts : Prop :=
  ∀ (s : State) (n : Block) (bytes : List Byte) (ctx : Ctx), s.here? = some n → n.txPhase = .idle →
    ((bytes = [] ∨ s.params.txMaxLen < bytes.length) →
      exec (.txStart bytes ctx) s = .next (s.put { n with out := n.out ++ [.ret (.bool false)] }))
    ∧ (bytes ≠ [] → bytes.length ≤ s.params.txMaxLen →
      ∃ buf : Memory,
        exec (.txStart bytes ctx) s = .next (s.put { n with
          txBuf := buf, txLen := bytes.length, txIdx := 0, txCtx := ctx, txPhase := .byte })
        ∧ (∀ i, i < bytes.length → Memory.read? buf i = bytes[i]?)
        ∧ ∀ i, bytes.length ≤ i → Memory.read? buf i = Memory.read? n.txBuf i)

/-- 44_tx_delay R226. TX.BYTE puts the byte at `tx_idx` on the line and starts the byte gap; with `LINE_ECHO` the
character will come back. A byte that nothing has written is a free value (log 6). -/
def Obligations.ByteIsSent : Prop :=
  ∀ (s : State) (n : Block), s.here? = some n → n.txPhase = .byte → n.txIdx < s.params.txMaxLen →
    (∀ b : Byte, Memory.read? n.txBuf n.txIdx = some b →
      exec .txByte s = .next (s.put { n with
        txd := .char b, out := n.out ++ [.lineChar b], dly := some .byteGap, txPhase := .gap
        echo := n.echo ++ (if s.params.lineEcho then [.char b] else []) }))
    ∧ (Memory.read? n.txBuf n.txIdx = none → ∃ (b : Byte) (cs : List Nat) (d : Nat),
      exec .txByte s = .next (s.put { n with
        txd := .char b, out := n.out ++ [.lineChar b], dly := some .byteGap, txPhase := .gap
        echo := n.echo ++ (if s.params.lineEcho then [.char b] else []), choices := cs, drawn := d }))

/-- 44_tx_delay R227. -/
def Obligations.GapEnds : Prop :=
  ∀ (s : State) (n : Block), s.here? = some n → n.txPhase = .gap → n.dly = none →
    exec .txGap s = .next (s.put { n with
      txd := .released, txIdx := n.txIdx + 1, txPhase := if n.txIdx + 1 < n.txLen then .byte else .brkAssert })

/-- 44_tx_delay R228, R229, 20_memory R75. The break is asserted and its delay started; on release the caller of
TX.START gets true, after TX.SENDBREAK nothing is returned: the two are told apart by `tx_len` (log 11). -/
def Obligations.BreakIsAssertedAndReleased : Prop :=
  ∀ (s : State) (n : Block), s.here? = some n →
    (n.txPhase = .brkAssert → exec .txBrkAssert s = .next (s.put { n with
      txd := .space, out := n.out ++ [.lineLow], dly := some .breakHold, txPhase := .brkHold }))
    ∧ (n.txPhase = .brkHold → n.dly = none → exec .txBrkRelease s = .next (s.put { n with
      txd := .released, txPhase := .idle
      out := n.out ++ [.lineRelease] ++ (if n.txLen = 0 then [] else [.ret (.bool true)])
      echo := n.echo ++ (if s.params.lineEcho then [.brk] else []) }))

/-- 44_tx_delay R230. -/
def Obligations.BareBreakStarts : Prop :=
  ∀ (s : State) (n : Block) (ctx : Ctx), s.here? = some n → n.txPhase = .idle →
    exec (.txSendbreak ctx) s = .next (s.put { n with txLen := 0, txIdx := 0, txCtx := ctx, txPhase := .brkAssert })

/-- 44_tx_delay R231, R232, 10_state R31, without time (D19). The delay generator runs from its start to its expiry, which
is possible whenever it runs. Under the invariant it is stopped whenever TX.BYTE or TX.BRK.ASSERT starts it. That
DLY.START issued by itself has a step only in the phase its issuer enters, with that issuer's duration and the generator
stopped, and is refused elsewhere, is the model's choice (log 21). -/
def Obligations.DelayRunsAndExpires : Prop :=
  ∀ (s : State) (n : Block) (d : Delay), s.here? = some n →
    let own : Prop := (d = .byteGap ∧ n.txPhase = .gap) ∨ (d = .breakHold ∧ n.txPhase = .brkHold)
    (own → n.dly = none → exec (.dlyStart d) s = .next (s.put { n with dly := some d })
      ∧ execAll [.dlyStart d, .dlyExpire] s = .next (s.put n))
    ∧ (own → n.dly ≠ none → exec (.dlyStart d) s = .refused .delayRunning)
    ∧ (¬own → exec (.dlyStart d) s = .refused .wrongPhase)
    ∧ (n.dly ≠ none → exec .dlyExpire s = .next (s.put { n with dly := none }))
    ∧ (n.dly = none → exec .dlyExpire s = .refused .delayStopped)
    ∧ ∀ t : State, n.Inv s.params → (exec .txByte s = .next t ∨ exec .txBrkAssert s = .next t) → n.dly = none

/-- 44_tx_delay R226 to R230, R234, 45_system_ops R253, 60_exceptions R274, R277 (e). A transmission is refused while one
is in progress, whatever its length; each transmit step has its phase, and the two that wait for the delay wait. -/
def Obligations.TransmitStepsOnlyInTheirPhase : Prop :=
  ∀ (s : State) (n : Block) (bytes : List Byte) (ctx : Ctx), s.here? = some n →
    (n.txPhase ≠ .idle → exec (.txStart bytes ctx) s = .refused .txBusy
      ∧ exec (.txSendbreak ctx) s = .refused .txBusy ∧ exec (.resync ctx) s = .refused .txBusy)
    ∧ (n.txPhase ≠ .byte → exec .txByte s = .refused .wrongPhase)
    ∧ (n.txPhase ≠ .gap → exec .txGap s = .refused .wrongPhase)
    ∧ (n.txPhase ≠ .brkAssert → exec .txBrkAssert s = .refused .wrongPhase)
    ∧ (n.txPhase ≠ .brkHold → exec .txBrkRelease s = .refused .wrongPhase)
    ∧ (n.dly ≠ none → (n.txPhase = .gap → exec .txGap s = .refused .delayRunning)
      ∧ (n.txPhase = .brkHold → exec .txBrkRelease s = .refused .delayRunning))

/-- 44_tx_delay R233. One accepted transmission of `k` bytes: `k` characters in buffer order, one break, then the result
true; afterwards the line is released, the transmitter idle, and the echo (with `LINE_ECHO`) is the same characters and
one break. A bare break puts `Low` and `Release` on the line. -/
def Obligations.TransmissionOutput : Prop :=
  ∀ (s : State) (n : Block) (bytes : List Byte) (ctx : Ctx), s.here? = some n → n.txPhase = .idle →
    (bytes ≠ [] → bytes.length ≤ s.params.txMaxLen →
      ∃ m : Block, execAll (.txStart bytes ctx :: sendSteps bytes.length) s = .next (s.put m)
        ∧ m.out = n.out ++ bytes.map Output.lineChar ++ [.lineLow, .lineRelease, .ret (.bool true)]
        ∧ m.txPhase = .idle ∧ m.txd = .released ∧ m.dly = none ∧ m.txLen = bytes.length ∧ m.txIdx = bytes.length
        ∧ m.echo = n.echo ++ (if s.params.lineEcho then bytes.map LineEvent.char ++ [.brk] else [])
        ∧ m.ring = n.ring ∧ m.evq = n.evq ∧ m.rxCount = n.rxCount ∧ m.inCallback = n.inCallback)
    ∧ execAll (.txSendbreak ctx :: breakSteps) s = .next (s.put { n with
        txLen := 0, txIdx := 0, txCtx := ctx, txPhase := .idle, txd := .released, dly := none
        out := n.out ++ [.lineLow, .lineRelease]
        echo := n.echo ++ (if s.params.lineEcho then [.brk] else []) })

/-- 10_state R29, 44_tx_delay R235. The transmit phase changes only as R29 lists, and a running transmission ends only
by TX.BRK.RELEASE or RESET. -/
def Obligations.PhaseTransitions : Prop :=
  ∀ (s t : State) (n m : Block) (i : Instr), s.here? = some n → exec i s = .next t → t.here? = some m →
    m.txPhase = n.txPhase
    ∨ ((∃ bytes ctx, i = .txStart bytes ctx) ∧ n.txPhase = .idle ∧ m.txPhase = .byte)
    ∨ (i = .txByte ∧ n.txPhase = .byte ∧ m.txPhase = .gap)
    ∨ (i = .txGap ∧ n.txPhase = .gap ∧ (m.txPhase = .byte ∨ m.txPhase = .brkAssert))
    ∨ (i = .txBrkAssert ∧ n.txPhase = .brkAssert ∧ m.txPhase = .brkHold)
    ∨ (i = .txBrkRelease ∧ n.txPhase = .brkHold ∧ m.txPhase = .idle)
    ∨ (((∃ ctx, i = .txSendbreak ctx) ∨ (∃ ctx, i = .resync ctx) ∨ i = .rxEvTimeout ∨ i = .rxWait)
        ∧ n.txPhase = .idle ∧ m.txPhase = .brkAssert)
    ∨ (i = .reset ∧ m.txPhase = .idle)

/-! ## System operations and reset -/

/-- 45_system_ops R252, R253, 70_reset_and_hazards R302. RX.FLUSH completes in every state and leaves the rest alone;
RESYNC with the transmitter idle is the flush and the beginning of a break, and listening goes on. -/
def Obligations.FlushAndResync : Prop :=
  ∀ (s : State) (n : Block), s.here? = some n →
    exec .rxFlush s =
      .next (s.put { n with ring := [], evq := [], condRing := false, condQueue := false, rxCount := 0 })
    ∧ ∀ ctx : Ctx, n.txPhase = .idle → exec (.resync ctx) s = .next (s.put { n with
        ring := [], evq := [], condRing := false, condQueue := false, rxCount := 0
        txLen := 0, txIdx := 0, txCtx := ctx, txPhase := .brkAssert })

/-- 45_system_ops R250, R251, R254. CFG.LINE changes nothing, CB.REGISTER replaces the callback, LISTEN.START starts the
loop context; all complete in every state. -/
def Obligations.SetUpOperations : Prop :=
  ∀ (s : State) (n : Block) (f : Nat), s.here? = some n →
    exec .cfgLine s = .next (s.put n)
    ∧ exec (.cbRegister f) s = .next (s.put { n with cb := some f })
    ∧ exec .listenStart s = .next (s.put { n with listening := true })

/-- 70_reset_and_hazards R301, 10_state R39, 45_system_ops R255. RESET completes in every state and takes every element
of the tuple to its power-on value; the byte arrays hold no known value. What is in the line, what has left the block
and the supplied choices are not the block's (log 10, log 11, log 18). Power-on is the same, with nothing
issued and `crc_acc` 0x00. -/
def Obligations.ResetRestoresPowerOn : Prop :=
  (∀ (s : State) (n : Block), s.here? = some n →
    ∃ m : Block, exec .reset s = .next (s.put m)
      ∧ m.crcAcc = s.params.crc8Init ∧ m.ring = [] ∧ m.evq = [] ∧ m.condRing = false ∧ m.condQueue = false ∧ m.rxCount = 0
      ∧ (∀ i, Memory.read? m.rxBuf i = none) ∧ m.quiet = .stopped ∧ m.listening = false ∧ m.inCallback = false
      ∧ m.cb = none ∧ (∀ i, Memory.read? m.txBuf i = none) ∧ m.txLen = 0 ∧ m.txIdx = 0 ∧ m.txPhase = .idle
      ∧ m.txCtx = .ext ∧ m.dly = none ∧ m.txd = .released ∧ m.hidden.shift = none ∧ m.hidden.lowTime = 0
      ∧ m.echo = n.echo ∧ m.out = n.out ∧ m.choices = n.choices ∧ m.drawn = n.drawn ∧ m.id = n.id)
  ∧ exec .reset State.reset = .next State.reset
  ∧ State.reset.inbox = [] ∧ State.reset.cur = .first ∧ State.reset.here? = some State.reset.first
  ∧ State.reset.first.crcAcc = 0x00
  ∧ (State.reset.second.isSome = true ↔ State.reset.params.nInst = 2)

/-! ## The whole machine -/

/-- 45_system_ops R255, 20_memory R76, 10_state R34. An operation changes the addressed unit and nothing else of the
machine, and what it does depends only on that unit and the parameters. When the addressed unit does not exist every
operation, bit time and echo is refused (log 15). -/
def Obligations.UnitsAreIndependent : Prop :=
  (∀ (s t : State) (i : Instr), exec i s = .next t → ∃ m : Block, t = s.put m ∧ t.unit? s.cur = some m
      ∧ (∀ id, id ≠ s.cur → t.unit? id = s.unit? id)
      ∧ t.params = s.params ∧ t.cur = s.cur ∧ t.inbox = s.inbox ∧ t.turns = s.turns ∧ t.turn = s.turn)
  ∧ (∀ (s s' : State) (n m : Block) (i : Instr), s.here? = some n → s'.here? = some n → s'.params = s.params →
      exec i s = .next (s.put m) → exec i s' = .next (s'.put m))
  ∧ (∀ (s t : State), step s = .next t → t.params = s.params)
  ∧ (∀ (s : State) (i : Instr), s.here? = none → exec i s = .refused .noSuchUnit)
  ∧ ∀ (s : State) (id : UnitId) (c : Code) (es : List Entry), s.unit? id = none →
      s.inbox = { dest := id, code := c } :: es →
      ((∃ i, decode c = .ok i) ∨ (∃ high, c = .level high) ∨ c = .echo) → step s = .refused .noSuchUnit

/-- 10_state R21, 20_memory R74. Only CRC8.CLR, CRC8.UPD and RESET change the accumulator; while a transmission is in
progress only RESET changes `TXBUF`, its length or its context: the bytes being sent never change under the sequencer. -/
def Obligations.WhoWritesAccumulatorAndBuffer : Prop :=
  ∀ (s t : State) (n m : Block) (i : Instr), s.here? = some n → exec i s = .next t → t.here? = some m → i ≠ .reset →
    (i ≠ .crc8Clr → (∀ b, i ≠ .crc8Upd b) → m.crcAcc = n.crcAcc)
    ∧ (n.txPhase ≠ .idle → m.txBuf = n.txBuf ∧ m.txLen = n.txLen ∧ m.txCtx = n.txCtx)

/-- 20_memory R69 (d), 60_exceptions R279. While a callback runs no frame is delivered and no warning given, and only
CB.RETURN and RESET end it. -/
def Obligations.OneCallbackAtATime : Prop :=
  ∀ (s t : State) (n m : Block) (i : Instr), s.here? = some n → exec i s = .next t → t.here? = some m →
    n.inCallback = true →
    (∀ o, (∃ bs k c, o = Output.frame bs k c) ∨ (∃ w, o = Output.warn w) → m.out.count o = n.out.count o)
    ∧ (m.inCallback = true ∨ i = .cbReturn ∨ i = .reset)

/-- 43_rx_framer R208. The accounting of received bytes is kept by every operation, but for RX.EV.DATA issued by itself,
which counts bytes no event announced (log 12). -/
def Obligations.ReceivedBytesAreAccountedFor : Prop :=
  ∀ (s t : State) (n m : Block) (i : Instr), s.here? = some n → exec i s = .next t → t.here? = some m →
    (∀ k, i ≠ .rxEvData k) → n.counted → m.counted

/-- 43_rx_framer R208, R211. A frame that arrives at an idle listening block with a callback, within the capacities, is
delivered whole, in order, with its class, by waits of the loop context, however its characters are grouped into events. -/
def Obligations.ReceivedFrameIsDelivered : Prop :=
  ∀ (s : State) (n : Block) (f : Nat) (bytes : List Byte), s.here? = some n → n.listeningIdle → n.cb = some f →
    bytes.length ≤ s.params.ringCap → bytes.length ≤ s.params.rxBufCap → bytes.length < s.params.evqCap →
    ∃ (k : Nat) (m : Block), k ≤ bytes.length + 1
      ∧ execAll (arrivals bytes ++ List.replicate k .rxWait) s = .next (s.put m)
      ∧ m.out = n.out ++ [.frame bytes bytes.length
          (if bytes.length = 1 ∨ bytes.length = 2 then .poll else if 7 ≤ bytes.length then .telegram else .other)]
      ∧ m.inCallback = true ∧ m.ring = [] ∧ m.evq = [] ∧ m.rxCount = 0 ∧ m.condPending = false

/-- 20_memory R60, 10_state R23 to R32, 44_tx_delay R231. Every step keeps what the units keep (`State.Inv`). -/
def Obligations.StepKeepsInvariant : Prop :=
  ∀ s t : State, s.Inv → step s = .next t → t.Inv

/-- 10_state R39. The state after reset meets what every step keeps. -/
def Obligations.ResetMeetsInvariant : Prop := State.reset.Inv

/-- 60_exceptions R280. Nothing is fatal: under the invariant no operation faults, and with nothing issued the block
itself has a next step, but for one case the spec refuses: a unit's wait that selects the quiet timeout while a
transmission of another context runs (R253, R274, log 13). -/
def Obligations.NothingIsFatal : Prop :=
  ∀ s : State, s.Inv → (∀ (i : Instr) (e : Fault), exec i s ≠ .fault e)
    ∧ (s.inbox = [] → (∃ t, step s = .next t)
      ∨ (step s = .refused .txBusy ∧ ∃ (id : UnitId) (n : Block), s.unit? id = some n ∧ n.listening = true
          ∧ n.inCallback = false ∧ n.txCtx = .ext ∧ n.txPhase ≠ .idle
          ∧ n.evq = [] ∧ n.condRing = false ∧ n.condQueue = false))

/-- 00_scope R2, 44_tx_delay R226 to R229, R232, 43_rx_framer R199, 20_memory R75. The moves open to a unit are the
transmit step of its phase (after the delay where it waits for it), the expiry of a running delay, the wait of a free
loop context and the echo in flight, and no others. With nothing issued a step is one of these moves of one of the
units, any of them (log 15); with no move open the block waits. -/
def Obligations.OwnAgentsMove : Prop :=
  (∀ (s : State) (id : UnitId) (n : Block), s.unit? id = some n →
    let canMove : Code → Prop := fun c => ({ dest := id, code := c } : Entry) ∈ s.moves
    (canMove (.op [0x41]) ↔ n.txPhase = .byte)
    ∧ (canMove (.op [0x42]) ↔ n.txPhase = .gap ∧ n.dly = none)
    ∧ (canMove (.op [0x43]) ↔ n.txPhase = .brkAssert)
    ∧ (canMove (.op [0x44]) ↔ n.txPhase = .brkHold ∧ n.dly = none)
    ∧ (canMove (.op [0x47]) ↔ n.dly ≠ none)
    ∧ (canMove (.op [0x32]) ↔ n.listening = true ∧ n.inCallback = false ∧ (n.txCtx = .loop → n.txPhase = .idle))
    ∧ (canMove .echo ↔ n.echo ≠ []))
  ∧ (∀ (s : State) (e : Entry), e ∈ s.moves → (∃ n, s.unit? e.dest = some n)
      ∧ e.code ∈ [Code.op [0x41], .op [0x42], .op [0x43], .op [0x44], .op [0x47], .op [0x32], .echo])
  ∧ decode (.op [0x41]) = .ok .txByte ∧ decode (.op [0x42]) = .ok .txGap ∧ decode (.op [0x43]) = .ok .txBrkAssert
  ∧ decode (.op [0x44]) = .ok .txBrkRelease ∧ decode (.op [0x47]) = .ok .dlyExpire ∧ decode (.op [0x32]) = .ok .rxWait
  ∧ ∀ s : State, s.inbox = [] →
    (s.moves = [] → step s = .next s)
    ∧ (s.moves ≠ [] → ∃ e ∈ s.moves, ∃ (ts : List Nat) (k : Nat),
        step s = step { s with inbox := [e], turns := ts, turn := k })
    ∧ ∀ e ∈ s.moves, ∃ ts : List Nat, step { s with turns := ts } = step { s with inbox := [e], turns := [] }

/-- 00_scope R2, 30_encoding R115. A step performs the operation that is presented next, on the unit it is addressed to,
and takes it from the inbox; what is no operation is refused by name (log 1). -/
def Obligations.StepRunsTheDecodedOperation : Prop :=
  ∀ (s : State) (id : UnitId) (c : Code) (es : List Entry), s.inbox = { dest := id, code := c } :: es →
    (∀ i : Instr, decode c = .ok i → step s = exec i { s with cur := id, inbox := es })
    ∧ (∀ why : Reject, decode c = .error why → (∀ high, c ≠ .level high) → c ≠ .echo →
        step s = .refused (.undecodable why))

/-- 30_encoding R90, R115. Decoding how an operation is presented gives it back, for every well-formed operation. -/
def Obligations.RequestRoundTrip : Prop :=
  ∀ i : Instr, i.wf = true → decode (encode i) = .ok i

/-- 30_encoding R91, R92, R98, R115, R117. Words written out from the encodings: a character, a break, a poll, frames, and
requests. That an index byte of R115 and operand bytes form a request is the model's choice (log 2). -/
def Obligations.WordsDecode : Prop :=
  decode (.op [0x01]) = .ok .crc8Clr
    ∧ decode (.op [0x30, 0x8B]) = .ok (.lineChar 0x8B)
    ∧ decode (.op [0x55]) = .ok .reset
    ∧ decode (.op [0x06]) = .error (.reservedIndex 0x06)
    ∧ decode (.line [false, true, true, false, true, false, false, false, true, true]) = .ok (.ch 0x8B)
    ∧ decode (.line (List.replicate 11 false)) = .ok (.brk 11)
    ∧ decode (.poll [0x8B]) = .ok (.poll1 0x8B)
    ∧ decode (.frame [0x8B, 0x88, 0xFF, 0x00, 0x1B, 0x00, 0xE4, 0x96])
        = .ok (.decXrd [0x8B, 0x88, 0xFF, 0x00, 0x1B, 0x00, 0xE4, 0x96])
    ∧ decode (.frame [0x8B, 0x08, 0xFF, 0x00, 0xFB]) = .ok (.decLeg [0x8B, 0x08, 0xFF, 0x00, 0xFB])
end

