-- ==== Sys2Proof/Laws/Decode.lean ====
section
/-! SUPPORT. Reading operand bytes gives back what was put: one lemma per kind of operand. -/

namespace Sys2Proof

@[simp] theorem chain_ok {α β : Type} (a : α) (r : List Byte) (f : α → List Byte → Except Reject β) :
    chain (.ok (a, r)) f = f a r := rfl

@[simp] theorem chain_error {α β : Type} (e : Reject) (f : α → List Byte → Except Reject β) :
    chain (.error e : Got α) f = .error e := rfl

@[simp] theorem getByte_cons (b : Byte) (r : List Byte) : getByte (b :: r) = .ok (b, r) := rfl

/-- A number that fits comes back. -/
theorem getNat_putNat (n : Nat) (r : List Byte) (h : fitsNat n = true) : getNat (putNat n ++ r) = .ok (n, r) := by
  simp only [fitsNat, decide_eq_true_eq] at h
  simp only [putNat, List.cons_append, List.nil_append, getNat, BitVec.toNat_ofNat]
  congr 2
  omega

/-- A byte sequence that fits comes back. -/
theorem getBytes_putBytes (bs r : List Byte) (h : fitsBytes bs = true) :
    getBytes (putBytes bs ++ r) = .ok (bs, r) := by
  simp [getBytes, putBytes, List.append_assoc, getNat_putNat _ _ h]

@[simp] theorem getCtx_ctxByte (c : Ctx) (r : List Byte) : getCtx (ctxByte c :: r) = .ok (c, r) := by
  cases c <;> rfl

@[simp] theorem getDelay_delayByte (d : Delay) (r : List Byte) : getDelay (delayByte d :: r) = .ok (d, r) := by
  cases d <;> rfl

@[simp] theorem getOperation_operationByte (o : Operation) (r : List Byte) :
    getOperation (operationByte o :: r) = .ok (o, r) := by
  cases o <;> rfl

/-- A 16-bit type comes back from its two bytes. -/
theorem getHalf_bytes (ty : Half) (r : List Byte) :
    getHalf (BitVec.ofNat 8 (ty.toNat / 256) :: BitVec.ofNat 8 ty.toNat :: r) = .ok (ty, r) := by
  have : (BitVec.ofNat 8 (ty.toNat / 256) ++ BitVec.ofNat 8 ty.toNat : Half) = ty := by
    apply BitVec.eq_of_toNat_eq
    have := ty.isLt
    rw [BitVec.toNat_append, ← Nat.shiftLeft_add_eq_or_of_lt (BitVec.isLt _), Nat.shiftLeft_eq]
    simp only [BitVec.toNat_ofNat]
    omega
  simp only [getHalf, this]

/-- A telegram whose payload fits comes back. -/
theorem getTelegram_putTelegram (t : Telegram) (r : List Byte) (h : fitsBytes t.data = true) :
    getTelegram (putTelegram t ++ r) = .ok (t, r) := by
  unfold putTelegram getTelegram
  simp only [List.cons_append, List.nil_append]
  rw [getOperation_operationByte, chain_ok, getByte_cons, chain_ok, getByte_cons, chain_ok, getHalf_bytes, chain_ok,
    getByte_cons, chain_ok, getBytes_putBytes _ _ h, chain_ok]

/-- Eight levels carry a byte. -/
theorem byteOfBits_bitsOfByte (b : Byte) : byteOfBits (bitsOfByte b) = b := by
  have bit (c : Bool) (bs : List Bool) (i : Nat) (hi : i < 8) :
      (byteOfBits (c :: bs)).getLsbD i = if i = 0 then c else (byteOfBits bs).getLsbD (i - 1) := by
    rw [byteOfBits]
    cases i with
    | zero => cases c <;> simp
    | succ i =>
      have : i < 8 := by omega
      cases c <;> simp [hi, this, BitVec.getLsbD_eq_getElem]
  apply BitVec.eq_of_getLsbD_eq
  intro i hi
  have e : bitsOfByte b = [b.getLsbD 0, b.getLsbD 1, b.getLsbD 2, b.getLsbD 3, b.getLsbD 4, b.getLsbD 5,
    b.getLsbD 6, b.getLsbD 7] := rfl
  rw [e]
  interval_cases i <;> simp (disch := omega) only [bit] <;> rfl

end Sys2Proof
end

