-- ==== Sys2Proof/Laws/State.lean ====
section
/-! SUPPORT. The small lemmas of State: one per field per update, and what addressing a unit does. -/

namespace Sys2Proof.Machine

/-! ### emit -/

@[simp] theorem Block.emit_crcAcc (n : Block) (o : Output) : (n.emit o).crcAcc = n.crcAcc := rfl
@[simp] theorem Block.emit_ring (n : Block) (o : Output) : (n.emit o).ring = n.ring := rfl
@[simp] theorem Block.emit_evq (n : Block) (o : Output) : (n.emit o).evq = n.evq := rfl
@[simp] theorem Block.emit_condRing (n : Block) (o : Output) : (n.emit o).condRing = n.condRing := rfl
@[simp] theorem Block.emit_condQueue (n : Block) (o : Output) : (n.emit o).condQueue = n.condQueue := rfl
@[simp] theorem Block.emit_rxCount (n : Block) (o : Output) : (n.emit o).rxCount = n.rxCount := rfl
@[simp] theorem Block.emit_rxBuf (n : Block) (o : Output) : (n.emit o).rxBuf = n.rxBuf := rfl
@[simp] theorem Block.emit_quiet (n : Block) (o : Output) : (n.emit o).quiet = n.quiet := rfl
@[simp] theorem Block.emit_listening (n : Block) (o : Output) : (n.emit o).listening = n.listening := rfl
@[simp] theorem Block.emit_inCallback (n : Block) (o : Output) : (n.emit o).inCallback = n.inCallback := rfl
@[simp] theorem Block.emit_cb (n : Block) (o : Output) : (n.emit o).cb = n.cb := rfl
@[simp] theorem Block.emit_txBuf (n : Block) (o : Output) : (n.emit o).txBuf = n.txBuf := rfl
@[simp] theorem Block.emit_txLen (n : Block) (o : Output) : (n.emit o).txLen = n.txLen := rfl
@[simp] theorem Block.emit_txIdx (n : Block) (o : Output) : (n.emit o).txIdx = n.txIdx := rfl
@[simp] theorem Block.emit_txPhase (n : Block) (o : Output) : (n.emit o).txPhase = n.txPhase := rfl
@[simp] theorem Block.emit_txCtx (n : Block) (o : Output) : (n.emit o).txCtx = n.txCtx := rfl
@[simp] theorem Block.emit_dly (n : Block) (o : Output) : (n.emit o).dly = n.dly := rfl
@[simp] theorem Block.emit_txd (n : Block) (o : Output) : (n.emit o).txd = n.txd := rfl
@[simp] theorem Block.emit_hidden (n : Block) (o : Output) : (n.emit o).hidden = n.hidden := rfl
@[simp] theorem Block.emit_echo (n : Block) (o : Output) : (n.emit o).echo = n.echo := rfl
@[simp] theorem Block.emit_out (n : Block) (o : Output) : (n.emit o).out = n.out ++ [o] := rfl
@[simp] theorem Block.emit_choices (n : Block) (o : Output) : (n.emit o).choices = n.choices := rfl
@[simp] theorem Block.emit_drawn (n : Block) (o : Output) : (n.emit o).drawn = n.drawn := rfl
@[simp] theorem Block.emit_id (n : Block) (o : Output) : (n.emit o).id = n.id := rfl

/-! ### ret -/

@[simp] theorem Block.ret_crcAcc (n : Block) (r : Result) : (n.ret r).crcAcc = n.crcAcc := rfl
@[simp] theorem Block.ret_ring (n : Block) (r : Result) : (n.ret r).ring = n.ring := rfl
@[simp] theorem Block.ret_evq (n : Block) (r : Result) : (n.ret r).evq = n.evq := rfl
@[simp] theorem Block.ret_condRing (n : Block) (r : Result) : (n.ret r).condRing = n.condRing := rfl
@[simp] theorem Block.ret_condQueue (n : Block) (r : Result) : (n.ret r).condQueue = n.condQueue := rfl
@[simp] theorem Block.ret_rxCount (n : Block) (r : Result) : (n.ret r).rxCount = n.rxCount := rfl
@[simp] theorem Block.ret_rxBuf (n : Block) (r : Result) : (n.ret r).rxBuf = n.rxBuf := rfl
@[simp] theorem Block.ret_quiet (n : Block) (r : Result) : (n.ret r).quiet = n.quiet := rfl
@[simp] theorem Block.ret_listening (n : Block) (r : Result) : (n.ret r).listening = n.listening := rfl
@[simp] theorem Block.ret_inCallback (n : Block) (r : Result) : (n.ret r).inCallback = n.inCallback := rfl
@[simp] theorem Block.ret_cb (n : Block) (r : Result) : (n.ret r).cb = n.cb := rfl
@[simp] theorem Block.ret_txBuf (n : Block) (r : Result) : (n.ret r).txBuf = n.txBuf := rfl
@[simp] theorem Block.ret_txLen (n : Block) (r : Result) : (n.ret r).txLen = n.txLen := rfl
@[simp] theorem Block.ret_txIdx (n : Block) (r : Result) : (n.ret r).txIdx = n.txIdx := rfl
@[simp] theorem Block.ret_txPhase (n : Block) (r : Result) : (n.ret r).txPhase = n.txPhase := rfl
@[simp] theorem Block.ret_txCtx (n : Block) (r : Result) : (n.ret r).txCtx = n.txCtx := rfl
@[simp] theorem Block.ret_dly (n : Block) (r : Result) : (n.ret r).dly = n.dly := rfl
@[simp] theorem Block.ret_txd (n : Block) (r : Result) : (n.ret r).txd = n.txd := rfl
@[simp] theorem Block.ret_hidden (n : Block) (r : Result) : (n.ret r).hidden = n.hidden := rfl
@[simp] theorem Block.ret_echo (n : Block) (r : Result) : (n.ret r).echo = n.echo := rfl
@[simp] theorem Block.ret_out (n : Block) (r : Result) : (n.ret r).out = n.out ++ [.ret r] := rfl
@[simp] theorem Block.ret_choices (n : Block) (r : Result) : (n.ret r).choices = n.choices := rfl
@[simp] theorem Block.ret_drawn (n : Block) (r : Result) : (n.ret r).drawn = n.drawn := rfl
@[simp] theorem Block.ret_id (n : Block) (r : Result) : (n.ret r).id = n.id := rfl

/-! ### report -/

@[simp] theorem Block.report_crcAcc (n : Block) (c : Cause) : (n.report c).crcAcc = n.crcAcc := rfl
@[simp] theorem Block.report_ring (n : Block) (c : Cause) : (n.report c).ring = n.ring := rfl
@[simp] theorem Block.report_evq (n : Block) (c : Cause) : (n.report c).evq = n.evq := rfl
@[simp] theorem Block.report_condRing (n : Block) (c : Cause) : (n.report c).condRing = n.condRing := rfl
@[simp] theorem Block.report_condQueue (n : Block) (c : Cause) : (n.report c).condQueue = n.condQueue := rfl
@[simp] theorem Block.report_rxCount (n : Block) (c : Cause) : (n.report c).rxCount = n.rxCount := rfl
@[simp] theorem Block.report_rxBuf (n : Block) (c : Cause) : (n.report c).rxBuf = n.rxBuf := rfl
@[simp] theorem Block.report_quiet (n : Block) (c : Cause) : (n.report c).quiet = n.quiet := rfl
@[simp] theorem Block.report_listening (n : Block) (c : Cause) : (n.report c).listening = n.listening := rfl
@[simp] theorem Block.report_inCallback (n : Block) (c : Cause) : (n.report c).inCallback = n.inCallback := rfl
@[simp] theorem Block.report_cb (n : Block) (c : Cause) : (n.report c).cb = n.cb := rfl
@[simp] theorem Block.report_txBuf (n : Block) (c : Cause) : (n.report c).txBuf = n.txBuf := rfl
@[simp] theorem Block.report_txLen (n : Block) (c : Cause) : (n.report c).txLen = n.txLen := rfl
@[simp] theorem Block.report_txIdx (n : Block) (c : Cause) : (n.report c).txIdx = n.txIdx := rfl
@[simp] theorem Block.report_txPhase (n : Block) (c : Cause) : (n.report c).txPhase = n.txPhase := rfl
@[simp] theorem Block.report_txCtx (n : Block) (c : Cause) : (n.report c).txCtx = n.txCtx := rfl
@[simp] theorem Block.report_dly (n : Block) (c : Cause) : (n.report c).dly = n.dly := rfl
@[simp] theorem Block.report_txd (n : Block) (c : Cause) : (n.report c).txd = n.txd := rfl
@[simp] theorem Block.report_hidden (n : Block) (c : Cause) : (n.report c).hidden = n.hidden := rfl
@[simp] theorem Block.report_echo (n : Block) (c : Cause) : (n.report c).echo = n.echo := rfl
@[simp] theorem Block.report_out (n : Block) (c : Cause) : (n.report c).out = n.out ++ [c.output] := rfl
@[simp] theorem Block.report_choices (n : Block) (c : Cause) : (n.report c).choices = n.choices := rfl
@[simp] theorem Block.report_drawn (n : Block) (c : Cause) : (n.report c).drawn = n.drawn := rfl
@[simp] theorem Block.report_id (n : Block) (c : Cause) : (n.report c).id = n.id := rfl

/-! ### startDelay -/

@[simp] theorem Block.startDelay_crcAcc (n : Block) (d : Delay) : (n.startDelay d).crcAcc = n.crcAcc := rfl
@[simp] theorem Block.startDelay_ring (n : Block) (d : Delay) : (n.startDelay d).ring = n.ring := rfl
@[simp] theorem Block.startDelay_evq (n : Block) (d : Delay) : (n.startDelay d).evq = n.evq := rfl
@[simp] theorem Block.startDelay_condRing (n : Block) (d : Delay) : (n.startDelay d).condRing = n.condRing := rfl
@[simp] theorem Block.startDelay_condQueue (n : Block) (d : Delay) : (n.startDelay d).condQueue = n.condQueue := rfl
@[simp] theorem Block.startDelay_rxCount (n : Block) (d : Delay) : (n.startDelay d).rxCount = n.rxCount := rfl
@[simp] theorem Block.startDelay_rxBuf (n : Block) (d : Delay) : (n.startDelay d).rxBuf = n.rxBuf := rfl
@[simp] theorem Block.startDelay_quiet (n : Block) (d : Delay) : (n.startDelay d).quiet = n.quiet := rfl
@[simp] theorem Block.startDelay_listening (n : Block) (d : Delay) : (n.startDelay d).listening = n.listening := rfl
@[simp] theorem Block.startDelay_inCallback (n : Block) (d : Delay) : (n.startDelay d).inCallback = n.inCallback := rfl
@[simp] theorem Block.startDelay_cb (n : Block) (d : Delay) : (n.startDelay d).cb = n.cb := rfl
@[simp] theorem Block.startDelay_txBuf (n : Block) (d : Delay) : (n.startDelay d).txBuf = n.txBuf := rfl
@[simp] theorem Block.startDelay_txLen (n : Block) (d : Delay) : (n.startDelay d).txLen = n.txLen := rfl
@[simp] theorem Block.startDelay_txIdx (n : Block) (d : Delay) : (n.startDelay d).txIdx = n.txIdx := rfl
@[simp] theorem Block.startDelay_txPhase (n : Block) (d : Delay) : (n.startDelay d).txPhase = n.txPhase := rfl
@[simp] theorem Block.startDelay_txCtx (n : Block) (d : Delay) : (n.startDelay d).txCtx = n.txCtx := rfl
@[simp] theorem Block.startDelay_dly (n : Block) (d : Delay) : (n.startDelay d).dly = some d := rfl
@[simp] theorem Block.startDelay_txd (n : Block) (d : Delay) : (n.startDelay d).txd = n.txd := rfl
@[simp] theorem Block.startDelay_hidden (n : Block) (d : Delay) : (n.startDelay d).hidden = n.hidden := rfl
@[simp] theorem Block.startDelay_echo (n : Block) (d : Delay) : (n.startDelay d).echo = n.echo := rfl
@[simp] theorem Block.startDelay_out (n : Block) (d : Delay) : (n.startDelay d).out = n.out := rfl
@[simp] theorem Block.startDelay_choices (n : Block) (d : Delay) : (n.startDelay d).choices = n.choices := rfl
@[simp] theorem Block.startDelay_drawn (n : Block) (d : Delay) : (n.startDelay d).drawn = n.drawn := rfl
@[simp] theorem Block.startDelay_id (n : Block) (d : Delay) : (n.startDelay d).id = n.id := rfl

/-! ### flush -/

@[simp] theorem Block.flush_crcAcc (n : Block) : n.flush.crcAcc = n.crcAcc := rfl
@[simp] theorem Block.flush_ring (n : Block) : n.flush.ring = [] := rfl
@[simp] theorem Block.flush_evq (n : Block) : n.flush.evq = [] := rfl
@[simp] theorem Block.flush_condRing (n : Block) : n.flush.condRing = false := rfl
@[simp] theorem Block.flush_condQueue (n : Block) : n.flush.condQueue = false := rfl
@[simp] theorem Block.flush_rxCount (n : Block) : n.flush.rxCount = 0 := rfl
@[simp] theorem Block.flush_rxBuf (n : Block) : n.flush.rxBuf = n.rxBuf := rfl
@[simp] theorem Block.flush_quiet (n : Block) : n.flush.quiet = n.quiet := rfl
@[simp] theorem Block.flush_listening (n : Block) : n.flush.listening = n.listening := rfl
@[simp] theorem Block.flush_inCallback (n : Block) : n.flush.inCallback = n.inCallback := rfl
@[simp] theorem Block.flush_cb (n : Block) : n.flush.cb = n.cb := rfl
@[simp] theorem Block.flush_txBuf (n : Block) : n.flush.txBuf = n.txBuf := rfl
@[simp] theorem Block.flush_txLen (n : Block) : n.flush.txLen = n.txLen := rfl
@[simp] theorem Block.flush_txIdx (n : Block) : n.flush.txIdx = n.txIdx := rfl
@[simp] theorem Block.flush_txPhase (n : Block) : n.flush.txPhase = n.txPhase := rfl
@[simp] theorem Block.flush_txCtx (n : Block) : n.flush.txCtx = n.txCtx := rfl
@[simp] theorem Block.flush_dly (n : Block) : n.flush.dly = n.dly := rfl
@[simp] theorem Block.flush_txd (n : Block) : n.flush.txd = n.txd := rfl
@[simp] theorem Block.flush_hidden (n : Block) : n.flush.hidden = n.hidden := rfl
@[simp] theorem Block.flush_echo (n : Block) : n.flush.echo = n.echo := rfl
@[simp] theorem Block.flush_out (n : Block) : n.flush.out = n.out := rfl
@[simp] theorem Block.flush_choices (n : Block) : n.flush.choices = n.choices := rfl
@[simp] theorem Block.flush_drawn (n : Block) : n.flush.drawn = n.drawn := rfl
@[simp] theorem Block.flush_id (n : Block) : n.flush.id = n.id := rfl

/-! ### sendBreak -/

@[simp] theorem Block.sendBreak_crcAcc (n : Block) (c : Ctx) : (n.sendBreak c).crcAcc = n.crcAcc := rfl
@[simp] theorem Block.sendBreak_ring (n : Block) (c : Ctx) : (n.sendBreak c).ring = n.ring := rfl
@[simp] theorem Block.sendBreak_evq (n : Block) (c : Ctx) : (n.sendBreak c).evq = n.evq := rfl
@[simp] theorem Block.sendBreak_condRing (n : Block) (c : Ctx) : (n.sendBreak c).condRing = n.condRing := rfl
@[simp] theorem Block.sendBreak_condQueue (n : Block) (c : Ctx) : (n.sendBreak c).condQueue = n.condQueue := rfl
@[simp] theorem Block.sendBreak_rxCount (n : Block) (c : Ctx) : (n.sendBreak c).rxCount = n.rxCount := rfl
@[simp] theorem Block.sendBreak_rxBuf (n : Block) (c : Ctx) : (n.sendBreak c).rxBuf = n.rxBuf := rfl
@[simp] theorem Block.sendBreak_quiet (n : Block) (c : Ctx) : (n.sendBreak c).quiet = n.quiet := rfl
@[simp] theorem Block.sendBreak_listening (n : Block) (c : Ctx) : (n.sendBreak c).listening = n.listening := rfl
@[simp] theorem Block.sendBreak_inCallback (n : Block) (c : Ctx) : (n.sendBreak c).inCallback = n.inCallback := rfl
@[simp] theorem Block.sendBreak_cb (n : Block) (c : Ctx) : (n.sendBreak c).cb = n.cb := rfl
@[simp] theorem Block.sendBreak_txBuf (n : Block) (c : Ctx) : (n.sendBreak c).txBuf = n.txBuf := rfl
@[simp] theorem Block.sendBreak_txLen (n : Block) (c : Ctx) : (n.sendBreak c).txLen = 0 := rfl
@[simp] theorem Block.sendBreak_txIdx (n : Block) (c : Ctx) : (n.sendBreak c).txIdx = 0 := rfl
@[simp] theorem Block.sendBreak_txPhase (n : Block) (c : Ctx) : (n.sendBreak c).txPhase = .brkAssert := rfl
@[simp] theorem Block.sendBreak_txCtx (n : Block) (c : Ctx) : (n.sendBreak c).txCtx = c := rfl
@[simp] theorem Block.sendBreak_dly (n : Block) (c : Ctx) : (n.sendBreak c).dly = n.dly := rfl
@[simp] theorem Block.sendBreak_txd (n : Block) (c : Ctx) : (n.sendBreak c).txd = n.txd := rfl
@[simp] theorem Block.sendBreak_hidden (n : Block) (c : Ctx) : (n.sendBreak c).hidden = n.hidden := rfl
@[simp] theorem Block.sendBreak_echo (n : Block) (c : Ctx) : (n.sendBreak c).echo = n.echo := rfl
@[simp] theorem Block.sendBreak_out (n : Block) (c : Ctx) : (n.sendBreak c).out = n.out := rfl
@[simp] theorem Block.sendBreak_choices (n : Block) (c : Ctx) : (n.sendBreak c).choices = n.choices := rfl
@[simp] theorem Block.sendBreak_drawn (n : Block) (c : Ctx) : (n.sendBreak c).drawn = n.drawn := rfl
@[simp] theorem Block.sendBreak_id (n : Block) (c : Ctx) : (n.sendBreak c).id = n.id := rfl

/-! ### countData -/

@[simp] theorem Block.countData_crcAcc (n : Block) (k : Nat) : (n.countData k).crcAcc = n.crcAcc := rfl
@[simp] theorem Block.countData_ring (n : Block) (k : Nat) : (n.countData k).ring = n.ring := rfl
@[simp] theorem Block.countData_evq (n : Block) (k : Nat) : (n.countData k).evq = n.evq := rfl
@[simp] theorem Block.countData_condRing (n : Block) (k : Nat) : (n.countData k).condRing = n.condRing := rfl
@[simp] theorem Block.countData_condQueue (n : Block) (k : Nat) : (n.countData k).condQueue = n.condQueue := rfl
@[simp] theorem Block.countData_rxCount (n : Block) (k : Nat) : (n.countData k).rxCount = n.rxCount + k := rfl
@[simp] theorem Block.countData_rxBuf (n : Block) (k : Nat) : (n.countData k).rxBuf = n.rxBuf := rfl
@[simp] theorem Block.countData_quiet (n : Block) (k : Nat) : (n.countData k).quiet = n.quiet := rfl
@[simp] theorem Block.countData_listening (n : Block) (k : Nat) : (n.countData k).listening = n.listening := rfl
@[simp] theorem Block.countData_inCallback (n : Block) (k : Nat) : (n.countData k).inCallback = n.inCallback := rfl
@[simp] theorem Block.countData_cb (n : Block) (k : Nat) : (n.countData k).cb = n.cb := rfl
@[simp] theorem Block.countData_txBuf (n : Block) (k : Nat) : (n.countData k).txBuf = n.txBuf := rfl
@[simp] theorem Block.countData_txLen (n : Block) (k : Nat) : (n.countData k).txLen = n.txLen := rfl
@[simp] theorem Block.countData_txIdx (n : Block) (k : Nat) : (n.countData k).txIdx = n.txIdx := rfl
@[simp] theorem Block.countData_txPhase (n : Block) (k : Nat) : (n.countData k).txPhase = n.txPhase := rfl
@[simp] theorem Block.countData_txCtx (n : Block) (k : Nat) : (n.countData k).txCtx = n.txCtx := rfl
@[simp] theorem Block.countData_dly (n : Block) (k : Nat) : (n.countData k).dly = n.dly := rfl
@[simp] theorem Block.countData_txd (n : Block) (k : Nat) : (n.countData k).txd = n.txd := rfl
@[simp] theorem Block.countData_hidden (n : Block) (k : Nat) : (n.countData k).hidden = n.hidden := rfl
@[simp] theorem Block.countData_echo (n : Block) (k : Nat) : (n.countData k).echo = n.echo := rfl
@[simp] theorem Block.countData_out (n : Block) (k : Nat) : (n.countData k).out = n.out := rfl
@[simp] theorem Block.countData_choices (n : Block) (k : Nat) : (n.countData k).choices = n.choices := rfl
@[simp] theorem Block.countData_drawn (n : Block) (k : Nat) : (n.countData k).drawn = n.drawn := rfl
@[simp] theorem Block.countData_id (n : Block) (k : Nat) : (n.countData k).id = n.id := rfl

/-! ### endFrame -/

@[simp] theorem Block.endFrame_crcAcc (n : Block) (k : Nat) : (n.endFrame k).crcAcc = n.crcAcc := rfl
@[simp] theorem Block.endFrame_ring (n : Block) (k : Nat) : (n.endFrame k).ring = n.ring.drop k := rfl
@[simp] theorem Block.endFrame_evq (n : Block) (k : Nat) : (n.endFrame k).evq = n.evq := rfl
@[simp] theorem Block.endFrame_condRing (n : Block) (k : Nat) : (n.endFrame k).condRing = n.condRing := rfl
@[simp] theorem Block.endFrame_condQueue (n : Block) (k : Nat) : (n.endFrame k).condQueue = n.condQueue := rfl
@[simp] theorem Block.endFrame_rxCount (n : Block) (k : Nat) : (n.endFrame k).rxCount = 0 := rfl
@[simp] theorem Block.endFrame_rxBuf (n : Block) (k : Nat) : (n.endFrame k).rxBuf = n.rxBuf := rfl
@[simp] theorem Block.endFrame_quiet (n : Block) (k : Nat) : (n.endFrame k).quiet = n.quiet := rfl
@[simp] theorem Block.endFrame_listening (n : Block) (k : Nat) : (n.endFrame k).listening = n.listening := rfl
@[simp] theorem Block.endFrame_inCallback (n : Block) (k : Nat) : (n.endFrame k).inCallback = n.inCallback := rfl
@[simp] theorem Block.endFrame_cb (n : Block) (k : Nat) : (n.endFrame k).cb = n.cb := rfl
@[simp] theorem Block.endFrame_txBuf (n : Block) (k : Nat) : (n.endFrame k).txBuf = n.txBuf := rfl
@[simp] theorem Block.endFrame_txLen (n : Block) (k : Nat) : (n.endFrame k).txLen = n.txLen := rfl
@[simp] theorem Block.endFrame_txIdx (n : Block) (k : Nat) : (n.endFrame k).txIdx = n.txIdx := rfl
@[simp] theorem Block.endFrame_txPhase (n : Block) (k : Nat) : (n.endFrame k).txPhase = n.txPhase := rfl
@[simp] theorem Block.endFrame_txCtx (n : Block) (k : Nat) : (n.endFrame k).txCtx = n.txCtx := rfl
@[simp] theorem Block.endFrame_dly (n : Block) (k : Nat) : (n.endFrame k).dly = n.dly := rfl
@[simp] theorem Block.endFrame_txd (n : Block) (k : Nat) : (n.endFrame k).txd = n.txd := rfl
@[simp] theorem Block.endFrame_hidden (n : Block) (k : Nat) : (n.endFrame k).hidden = n.hidden := rfl
@[simp] theorem Block.endFrame_echo (n : Block) (k : Nat) : (n.endFrame k).echo = n.echo := rfl
@[simp] theorem Block.endFrame_out (n : Block) (k : Nat) : (n.endFrame k).out = n.out := rfl
@[simp] theorem Block.endFrame_choices (n : Block) (k : Nat) : (n.endFrame k).choices = n.choices := rfl
@[simp] theorem Block.endFrame_drawn (n : Block) (k : Nat) : (n.endFrame k).drawn = n.drawn := rfl
@[simp] theorem Block.endFrame_id (n : Block) (k : Nat) : (n.endFrame k).id = n.id := rfl

/-! ### loadTx -/

@[simp] theorem Block.loadTx_crcAcc (n : Block) (bs : List Byte) (c : Ctx) : (n.loadTx bs c).crcAcc = n.crcAcc := rfl
@[simp] theorem Block.loadTx_ring (n : Block) (bs : List Byte) (c : Ctx) : (n.loadTx bs c).ring = n.ring := rfl
@[simp] theorem Block.loadTx_evq (n : Block) (bs : List Byte) (c : Ctx) : (n.loadTx bs c).evq = n.evq := rfl
@[simp] theorem Block.loadTx_condRing (n : Block) (bs : List Byte) (c : Ctx) : (n.loadTx bs c).condRing = n.condRing := rfl
@[simp] theorem Block.loadTx_condQueue (n : Block) (bs : List Byte) (c : Ctx) : (n.loadTx bs c).condQueue = n.condQueue := rfl
@[simp] theorem Block.loadTx_rxCount (n : Block) (bs : List Byte) (c : Ctx) : (n.loadTx bs c).rxCount = n.rxCount := rfl
@[simp] theorem Block.loadTx_rxBuf (n : Block) (bs : List Byte) (c : Ctx) : (n.loadTx bs c).rxBuf = n.rxBuf := rfl
@[simp] theorem Block.loadTx_quiet (n : Block) (bs : List Byte) (c : Ctx) : (n.loadTx bs c).quiet = n.quiet := rfl
@[simp] theorem Block.loadTx_listening (n : Block) (bs : List Byte) (c : Ctx) : (n.loadTx bs c).listening = n.listening := rfl
@[simp] theorem Block.loadTx_inCallback (n : Block) (bs : List Byte) (c : Ctx) : (n.loadTx bs c).inCallback = n.inCallback := rfl
@[simp] theorem Block.loadTx_cb (n : Block) (bs : List Byte) (c : Ctx) : (n.loadTx bs c).cb = n.cb := rfl
@[simp] theorem Block.loadTx_txBuf (n : Block) (bs : List Byte) (c : Ctx) : (n.loadTx bs c).txBuf = Memory.writeBytes n.txBuf 0 bs := rfl
@[simp] theorem Block.loadTx_txLen (n : Block) (bs : List Byte) (c : Ctx) : (n.loadTx bs c).txLen = bs.length := rfl
@[simp] theorem Block.loadTx_txIdx (n : Block) (bs : List Byte) (c : Ctx) : (n.loadTx bs c).txIdx = 0 := rfl
@[simp] theorem Block.loadTx_txPhase (n : Block) (bs : List Byte) (c : Ctx) : (n.loadTx bs c).txPhase = .byte := rfl
@[simp] theorem Block.loadTx_txCtx (n : Block) (bs : List Byte) (c : Ctx) : (n.loadTx bs c).txCtx = c := rfl
@[simp] theorem Block.loadTx_dly (n : Block) (bs : List Byte) (c : Ctx) : (n.loadTx bs c).dly = n.dly := rfl
@[simp] theorem Block.loadTx_txd (n : Block) (bs : List Byte) (c : Ctx) : (n.loadTx bs c).txd = n.txd := rfl
@[simp] theorem Block.loadTx_hidden (n : Block) (bs : List Byte) (c : Ctx) : (n.loadTx bs c).hidden = n.hidden := rfl
@[simp] theorem Block.loadTx_echo (n : Block) (bs : List Byte) (c : Ctx) : (n.loadTx bs c).echo = n.echo := rfl
@[simp] theorem Block.loadTx_out (n : Block) (bs : List Byte) (c : Ctx) : (n.loadTx bs c).out = n.out := rfl
@[simp] theorem Block.loadTx_choices (n : Block) (bs : List Byte) (c : Ctx) : (n.loadTx bs c).choices = n.choices := rfl
@[simp] theorem Block.loadTx_drawn (n : Block) (bs : List Byte) (c : Ctx) : (n.loadTx bs c).drawn = n.drawn := rfl
@[simp] theorem Block.loadTx_id (n : Block) (bs : List Byte) (c : Ctx) : (n.loadTx bs c).id = n.id := rfl

/-! ### sent -/

@[simp] theorem Block.sent_crcAcc (p : Params) (n : Block) (e : LineEvent) : (n.sent p e).crcAcc = n.crcAcc := rfl
@[simp] theorem Block.sent_ring (p : Params) (n : Block) (e : LineEvent) : (n.sent p e).ring = n.ring := rfl
@[simp] theorem Block.sent_evq (p : Params) (n : Block) (e : LineEvent) : (n.sent p e).evq = n.evq := rfl
@[simp] theorem Block.sent_condRing (p : Params) (n : Block) (e : LineEvent) : (n.sent p e).condRing = n.condRing := rfl
@[simp] theorem Block.sent_condQueue (p : Params) (n : Block) (e : LineEvent) : (n.sent p e).condQueue = n.condQueue := rfl
@[simp] theorem Block.sent_rxCount (p : Params) (n : Block) (e : LineEvent) : (n.sent p e).rxCount = n.rxCount := rfl
@[simp] theorem Block.sent_rxBuf (p : Params) (n : Block) (e : LineEvent) : (n.sent p e).rxBuf = n.rxBuf := rfl
@[simp] theorem Block.sent_quiet (p : Params) (n : Block) (e : LineEvent) : (n.sent p e).quiet = n.quiet := rfl
@[simp] theorem Block.sent_listening (p : Params) (n : Block) (e : LineEvent) : (n.sent p e).listening = n.listening := rfl
@[simp] theorem Block.sent_inCallback (p : Params) (n : Block) (e : LineEvent) : (n.sent p e).inCallback = n.inCallback := rfl
@[simp] theorem Block.sent_cb (p : Params) (n : Block) (e : LineEvent) : (n.sent p e).cb = n.cb := rfl
@[simp] theorem Block.sent_txBuf (p : Params) (n : Block) (e : LineEvent) : (n.sent p e).txBuf = n.txBuf := rfl
@[simp] theorem Block.sent_txLen (p : Params) (n : Block) (e : LineEvent) : (n.sent p e).txLen = n.txLen := rfl
@[simp] theorem Block.sent_txIdx (p : Params) (n : Block) (e : LineEvent) : (n.sent p e).txIdx = n.txIdx := rfl
@[simp] theorem Block.sent_txPhase (p : Params) (n : Block) (e : LineEvent) : (n.sent p e).txPhase = n.txPhase := rfl
@[simp] theorem Block.sent_txCtx (p : Params) (n : Block) (e : LineEvent) : (n.sent p e).txCtx = n.txCtx := rfl
@[simp] theorem Block.sent_dly (p : Params) (n : Block) (e : LineEvent) : (n.sent p e).dly = n.dly := rfl
@[simp] theorem Block.sent_txd (p : Params) (n : Block) (e : LineEvent) : (n.sent p e).txd = n.txd := rfl
@[simp] theorem Block.sent_hidden (p : Params) (n : Block) (e : LineEvent) : (n.sent p e).hidden = n.hidden := rfl
@[simp] theorem Block.sent_echo (p : Params) (n : Block) (e : LineEvent) : (n.sent p e).echo = if p.lineEcho then n.echo ++ [e] else n.echo := rfl
@[simp] theorem Block.sent_out (p : Params) (n : Block) (e : LineEvent) : (n.sent p e).out = n.out := rfl
@[simp] theorem Block.sent_choices (p : Params) (n : Block) (e : LineEvent) : (n.sent p e).choices = n.choices := rfl
@[simp] theorem Block.sent_drawn (p : Params) (n : Block) (e : LineEvent) : (n.sent p e).drawn = n.drawn := rfl
@[simp] theorem Block.sent_id (p : Params) (n : Block) (e : LineEvent) : (n.sent p e).id = n.id := rfl

/-! ### put -/

@[simp] theorem State.put_params (s : State) (n : Block) : (s.put n).params = s.params := by
  unfold State.put; cases s.cur <;> rfl
@[simp] theorem State.put_cur (s : State) (n : Block) : (s.put n).cur = s.cur := by
  unfold State.put; cases s.cur <;> rfl
@[simp] theorem State.put_inbox (s : State) (n : Block) : (s.put n).inbox = s.inbox := by
  unfold State.put; cases s.cur <;> rfl
@[simp] theorem State.put_turns (s : State) (n : Block) : (s.put n).turns = s.turns := by
  unfold State.put; cases s.cur <;> rfl
@[simp] theorem State.put_turn (s : State) (n : Block) : (s.put n).turn = s.turn := by
  unfold State.put; cases s.cur <;> rfl

/-- The addressed unit's tuple is the one put there. -/
@[simp] theorem State.here?_put (s : State) (n : Block) : (s.put n).here? = some n := by
  unfold State.here? State.put
  cases s.cur <;> simp [State.unit?]

/-- The other unit is not touched (20_memory R76). -/
theorem State.unit?_put_of_ne (s : State) (n : Block) (u : UnitId) (h : u ≠ s.cur) :
    (s.put n).unit? u = s.unit? u := by
  unfold State.put
  cases hc : s.cur <;> cases u <;> simp_all [State.unit?]

/-- Putting twice is putting the last. -/
@[simp] theorem State.put_put (s : State) (n m : Block) : (s.put n).put m = s.put m := by
  unfold State.put
  cases s.cur <;> simp

/-- Putting back what is there changes nothing. -/
theorem State.put_here (s : State) (n : Block) (h : s.here? = some n) : s.put n = s := by
  unfold State.here? at h
  unfold State.put
  cases hc : s.cur <;> simp_all [State.unit?]
  · cases s; simp_all
  · cases s; simp_all

/-! ### onHere: one spec lemma each way -/

/-- An operation that answers on the addressed unit answers on the machine. -/
theorem State.onHere_next {s : State} {n n' : Block} {f : Block → Host.Outcome Block Fault Refusal}
    (h : s.here? = some n) (hf : f n = .next n') : s.onHere f = .next (s.put n') := by
  simp [State.onHere, h, hf]

/-- A refusal on the addressed unit is a refusal of the machine. -/
theorem State.onHere_refused {s : State} {n : Block} {r : Refusal} {f : Block → Host.Outcome Block Fault Refusal}
    (h : s.here? = some n) (hf : f n = .refused r) : s.onHere f = .refused r := by
  simp [State.onHere, h, hf]

/-- A fault on the addressed unit is a fault of the machine. -/
theorem State.onHere_fault {s : State} {n : Block} {e : Fault} {f : Block → Host.Outcome Block Fault Refusal}
    (h : s.here? = some n) (hf : f n = .fault e) : s.onHere f = .fault e := by
  simp [State.onHere, h, hf]

/-- Everything an operation on the addressed unit can do when it answers a next state. -/
theorem State.onHere_cases {s t : State} {f : Block → Host.Outcome Block Fault Refusal} (h : s.onHere f = .next t) :
    ∃ n n', s.here? = some n ∧ f n = .next n' ∧ t = s.put n' := by
  unfold State.onHere at h
  split at h
  · cases h
  · rename_i n hn
    split at h
    · rename_i n' hf
      cases h
      exact ⟨n, n', hn, hf, rfl⟩
    · cases h
    · cases h

end Sys2Proof.Machine
end

