-- ==== Sys2Proof/Laws/Exec.lean ====
section
/-! SUPPORT. Every operation acts on one unit: its effect there, and what `exec` and `step` can do, said once. -/

namespace Sys2Proof.Machine

/-- The effect of an operation on the addressed unit. -/
def Block.perform (p : Params) (i : Instr) (n : Block) : Host.Outcome Block Fault Refusal :=
  match i with
  | .crc8Clr => n.crc8Clr p
  | .crc8Upd b => n.crc8Upd p b
  | .crc8Rd => n.crc8Rd
  | .crc8Blk buf => n.crc8Blk p buf
  | .crc8Chk raw len => n.crc8Chk p raw len
  | .decode raw len => n.decode p raw len
  | .encode t => n.encode p t
  | .classify len => n.classify len
  | .fxLocate t pos w => n.fxLocate t pos w
  | .fxU t pos w => n.fxU t pos w
  | .fxS t pos w => n.fxS t pos w
  | .fxS24 t pos => n.fxS24 t pos
  | .fxBit t pos bit => n.fxBit t pos bit
  | .lineChar b => n.lineChar p b
  | .lineBreak => n.lineBreak p
  | .rxWait => n.rxWait p
  | .rxEvData k => n.rxEvData k
  | .rxEvBreak => n.rxEvBreak p
  | .rxEvRingovf => n.rxEvRingovf
  | .rxEvQfull => n.rxEvQfull
  | .rxEvTimeout => n.rxEvTimeout
  | .rxDeliver frame => n.rxDeliver frame
  | .cbReturn => n.cbReturn
  | .txStart bytes ctx => n.txStart p bytes ctx
  | .txByte => n.txByte p
  | .txGap => n.txGap
  | .txBrkAssert => n.txBrkAssert
  | .txBrkRelease => n.txBrkRelease p
  | .txSendbreak ctx => n.txSendbreak ctx
  | .dlyStart d => n.dlyStart d
  | .dlyExpire => n.dlyExpire
  | .cfgLine => n.cfgLine
  | .cbRegister f => n.cbRegister f
  | .rxFlush => n.rxFlush
  | .resync ctx => n.resync ctx
  | .listenStart => n.listenStart
  | .reset => n.powerReset p
  | .ch b => n.wireChar p b
  | .brk lowBits => n.wireBreak p lowBits
  | .poll1 b => n.wirePoll p [b]
  | .poll2 b0 b1 => n.wirePoll p [b0, b1]
  | .decXrd raw => n.decXrd p raw
  | .decXwr raw => n.decXwr p raw
  | .decLeg raw => n.decLeg p raw
  | .decTooshort raw => n.decTooshort raw
  | .encLegRd t => n.encLegRd p t
  | .encLegWr t => n.encLegWr p t
  | .encXRd t => n.encXRd p t
  | .encXWr t => n.encXWr p t

/-- `exec` is the effect on the addressed unit, and nothing else of the machine changes. -/
theorem exec_eq_onHere (i : Instr) (s : State) : exec i s = s.onHere (Block.perform s.params i) := by
  cases i <;> rfl

/-- When an operation has a step, and what it leaves. -/
theorem exec_next {i : Instr} {s : State} {n n' : Block} (h : s.here? = some n)
    (hp : Block.perform s.params i n = .next n') : exec i s = .next (s.put n') := by
  rw [exec_eq_onHere]; exact State.onHere_next h hp

/-- Everything an operation can do when it answers a next state. -/
theorem exec_cases {i : Instr} {s t : State} (h : exec i s = .next t) :
    ∃ n n', s.here? = some n ∧ Block.perform s.params i n = .next n' ∧ t = s.put n' :=
  State.onHere_cases (exec_eq_onHere i s ▸ h)

/-- Everything a step can do: wait, take a bit time that completes nothing, or perform an operation. -/
theorem step_cases {s t : State} (h : step s = .next t) :
    (s.fetch = .idle ∧ t = s) ∨ s.fetch = .only t ∨ ∃ i s', s.fetch = .run i s' ∧ exec i s' = .next t := by
  unfold step at h
  split at h
  · rename_i hf
    cases h
    exact .inl ⟨hf, rfl⟩
  · rename_i s' hf
    cases h
    exact .inr (.inl hf)
  · cases h
  · rename_i i s' hf
    exact .inr (.inr ⟨i, s', hf, h⟩)

end Sys2Proof.Machine
end

