-- ==== Sys2Proof/Laws/Memory.lean ====
section
/-! SUPPORT. The laws of byte arrays: a read after a write, a write leaves every other address alone, and every
operation keeps the canonical form. -/

namespace Sys2Proof.Machine.Memory

@[simp] theorem read?_nil (a : Nat) : read? [] a = none := rfl

/-- The byte written is the byte read. -/
@[simp] theorem read?_write_self (m : Memory) (a : Nat) (b : Byte) : read? (write m a b) a = some b := by
  induction m with
  | nil => simp [write, read?]
  | cons c m ih =>
    obtain ⟨x, v⟩ := c
    simp only [write]
    split
    · simp [read?]
    · split
      · simp [read?]
      · rename_i h; simp [read?, h, ih]

/-- Another address reads as before. -/
theorem read?_write_of_ne (m : Memory) {a x : Nat} (b : Byte) (h : x ≠ a) : read? (write m a b) x = read? m x := by
  induction m with
  | nil => simp [write, read?, h]
  | cons c m ih =>
    obtain ⟨y, v⟩ := c
    simp only [write]
    split
    · simp [read?, h]
    · split
      · rename_i hay; subst hay; simp [read?, h]
      · simp [read?, ih]

/-- Outside the bytes written, every address reads as before. -/
theorem read?_writeBytes_of_not_mem (bs : List Byte) : ∀ (m : Memory) (a x : Nat), (x < a ∨ a + bs.length ≤ x) →
    read? (writeBytes m a bs) x = read? m x := by
  induction bs with
  | nil => intros; rfl
  | cons b bs ih =>
    intro m a x h
    simp only [List.length_cons] at h
    rw [writeBytes, ih _ _ _ (by omega), read?_write_of_ne _ _ (by omega)]

/-- The bytes written are the bytes read. -/
theorem read?_writeBytes (bs : List Byte) : ∀ (m : Memory) (a i : Nat), i < bs.length →
    read? (writeBytes m a bs) (a + i) = bs[i]? := by
  induction bs with
  | nil => intro m a i h; simp at h
  | cons b bs ih =>
    intro m a i h
    cases i with
    | zero => simp [writeBytes, read?_writeBytes_of_not_mem bs _ (a + 1) a (.inl (by omega))]
    | succ i =>
      have := ih (write m a b) (a + 1) i (by simpa using h)
      simpa [writeBytes, Nat.add_assoc, Nat.add_comm 1 i] using this

/-- Reading back what was written gives it. -/
theorem readBytes_writeBytes (bs : List Byte) : ∀ (m : Memory) (a : Nat),
    readBytes (writeBytes m a bs) a bs.length = bs := by
  induction bs with
  | nil => intros; rfl
  | cons b bs ih =>
    intro m a
    simp only [List.length_cons, readBytes, writeBytes, ih,
      read?_writeBytes_of_not_mem bs _ (a + 1) a (.inl (by omega)), read?_write_self, Option.toList,
      List.cons_append, List.nil_append]

/-- The first address of an array with its form kept is below every other. -/
theorem wf_cons_write {x : Nat} {v : Byte} {m : Memory} {a : Nat} {b : Byte} (h : wf ((x, v) :: m) = true)
    (hx : x < a) (hm : wf (write m a b) = true) : wf ((x, v) :: write m a b) = true := by
  cases m with
  | nil => simp [write, wf, hx]
  | cons c m =>
    obtain ⟨y, w⟩ := c
    simp only [wf, Bool.and_eq_true, decide_eq_true_eq] at h
    revert hm
    simp only [write]
    split
    · intro hm; simp [wf, hx] at hm ⊢; exact hm
    · split
      · intro hm; simp [wf, hx] at hm ⊢; exact hm
      · intro hm; simp only [wf, Bool.and_eq_true, decide_eq_true_eq]; exact ⟨h.1, hm⟩

/-- A write keeps the canonical form. -/
theorem wf_write (m : Memory) (a : Nat) (b : Byte) (h : wf m = true) : wf (write m a b) = true := by
  induction m with
  | nil => rfl
  | cons c m ih =>
    obtain ⟨x, v⟩ := c
    have ht : wf m = true := by
      cases m with
      | nil => rfl
      | cons d m => simp only [wf, Bool.and_eq_true] at h; exact h.2
    by_cases h1 : a < x
    · simp [write, h1, wf, h]
    · by_cases h2 : a = x
      · subst h2
        cases m with
        | nil => simp [write, wf]
        | cons d m => simpa [write, wf] using h
      · have := wf_cons_write (v := v) (b := b) h (show x < a by omega) (ih ht)
        simpa [write, h1, h2] using this

/-- Writing a sequence keeps the canonical form. -/
theorem wf_writeBytes (bs : List Byte) : ∀ (m : Memory) (a : Nat), wf m = true → wf (writeBytes m a bs) = true := by
  induction bs with
  | nil => intro m a h; exact h
  | cons b bs ih => intro m a h; exact ih _ _ (wf_write m a b h)

/-- A write inside the array stays inside it. -/
theorem below_write (m : Memory) {a size : Nat} (b : Byte) (ha : a < size) (h : below m size = true) :
    below (write m a b) size = true := by
  induction m with
  | nil => simp [write, below, ha]
  | cons c m ih =>
    obtain ⟨x, v⟩ := c
    simp only [below, List.all_cons, Bool.and_eq_true, decide_eq_true_eq] at h ih ⊢
    simp only [write]
    split
    · simp [ha, h.1, h.2]
    · split
      · simp [ha, h.2]
      · simp [h.1, ih h.2]

/-- A sequence written inside the array stays inside it. -/
theorem below_writeBytes (bs : List Byte) : ∀ (m : Memory) (a size : Nat), a + bs.length ≤ size →
    below m size = true → below (writeBytes m a bs) size = true := by
  induction bs with
  | nil => intro m a size _ h; exact h
  | cons b bs ih =>
    intro m a size hl h
    simp only [List.length_cons] at hl
    exact ih _ _ _ (by omega) (below_write m b (by omega) h)

end Sys2Proof.Machine.Memory

namespace Sys2Proof.Machine

/-- The arrays of the reset state have the canonical form. -/
theorem reset_arrays_wf : Memory.wf State.reset.first.rxBuf = true ∧ Memory.wf State.reset.first.txBuf = true :=
  ⟨rfl, rfl⟩

end Sys2Proof.Machine
end

