-- ==== Sys2Proof/Laws/Ops.lean ====
section
/-! SUPPORT. What the shared operations can do, said once: refusing, the free loop context, choices, posting an event,
and the wait. -/

namespace Sys2Proof.Machine

/-- When an operation has no step. -/
theorem exec_refused {i : Instr} {s : State} {n : Block} {r : Refusal} (h : s.here? = some n)
    (hp : Block.perform s.params i n = .refused r) : exec i s = .refused r := by
  rw [exec_eq_onHere]; exact State.onHere_refused h hp

/-- The same operation on the machine with the addressed unit replaced. -/
theorem exec_put {i : Instr} {s : State} {n n' : Block} (hp : Block.perform s.params i n = .next n') :
    exec i (s.put n) = .next (s.put n') := by
  have := exec_next (s := s.put n) (i := i) (State.here?_put s n) (by simpa using hp)
  simpa using this

/-- When the loop context can take a step (43_rx_framer R199). -/
theorem Block.loopFree_iff {n : Block} :
    n.loopFree = true ↔ n.listening = true ∧ n.inCallback = false ∧ (n.txCtx = .loop → n.txPhase = .idle) := by
  simp only [Block.loopFree, Block.loopHeld, Block.txBusy, Bool.and_eq_true, Bool.not_eq_true', Bool.and_eq_false_iff,
    beq_eq_false_iff_ne, bne_eq_false_iff_eq]
  constructor
  · rintro ⟨⟨a, b⟩, c⟩
    exact ⟨a, b, fun h => c.resolve_left (not_not_intro h)⟩
  · rintro ⟨a, b, c⟩
    refine ⟨⟨a, b⟩, ?_⟩
    by_cases h : n.txCtx = .loop
    · exact .inr (c h)
    · exact .inl h

/-- A step of a free loop context is taken. -/
theorem Block.asLoop_free {n : Block} (h : n.loopFree = true) (o : Host.Outcome Block Fault Refusal) :
    n.asLoop o = o := by simp [Block.asLoop, h]

/-- A loop context that is not free takes no step. -/
theorem Block.asLoop_held {n : Block} (h : n.loopFree = false) (o : Host.Outcome Block Fault Refusal) :
    n.asLoop o = .refused .loopNotFree := by simp [Block.asLoop, h]

/-- A step of the loop context that answers a next state was taken by a free one. -/
theorem Block.asLoop_cases {n n' : Block} {o : Host.Outcome Block Fault Refusal} (h : n.asLoop o = .next n') :
    n.loopFree = true ∧ o = .next n' := by
  cases hf : n.loopFree
  · simp [Block.asLoop_held hf] at h
  · exact ⟨rfl, by rwa [Block.asLoop_free hf] at h⟩

/-- When DLY.START issued by itself has a step, and which (44_tx_delay R231, log 21). -/
theorem Block.dlyStart_cases {d : Delay} {n n' : Block} (h : n.dlyStart d = .next n') :
    n.txPhase = delayPhase d ∧ n.dly = none ∧ n' = n.startDelay d := by
  unfold Block.dlyStart at h
  split at h
  · cases h
  · split at h
    · cases h
    · cases h
      exact ⟨Decidable.not_not.mp ‹_›, Decidable.not_not.mp ‹_›, rfl⟩

/-- Drawing an outcome changes only what supplies outcomes. -/
theorem Block.draw_snd (n : Block) : ∃ cs d, (n.draw).2 = { n with choices := cs, drawn := d } := by
  unfold Block.draw
  split
  · rename_i c cs _
    exact ⟨cs, n.drawn, rfl⟩
  · exact ⟨n.choices, n.drawn + 1, rfl⟩

/-- Picking an outcome changes only what supplies outcomes. -/
theorem Block.pick_snd (n : Block) (k : Nat) : ∃ cs d, (n.pick k).2 = { n with choices := cs, drawn := d } := by
  unfold Block.pick
  split
  · exact ⟨n.choices, n.drawn, rfl⟩
  · exact n.draw_snd

/-- An outcome picked among `k` is below `k`. -/
theorem Block.pick_lt (n : Block) {k : Nat} (h : 0 < k) : (n.pick k).1 < k := by
  unfold Block.pick
  split
  · exact h
  · exact Nat.mod_lt _ h

/-- The supplied outcome is the one picked. -/
theorem Block.pick_supplied (n : Block) {k c : Nat} {cs : List Nat} (hk : 1 < k) (hc : n.choices = c :: cs) :
    n.pick k = (c % k, { n with choices := cs }) := by
  simp [Block.pick, Block.draw, hc, Nat.not_le.mpr hk]

/-- Everything `post` can do (R198). -/
theorem Block.post_cases (p : Params) (n : Block) (e : Event) :
    (n.evq.length < p.evqCap ∧ n.post p e = { n with evq := n.evq ++ [e] })
    ∨ (p.evqCap ≤ n.evq.length ∧ n.post p e = { n with condQueue := true }) := by
  unfold Block.post
  split
  · exact .inl ⟨‹_›, rfl⟩
  · exact .inr ⟨Nat.not_lt.mp ‹_›, rfl⟩

/-- Everything the counting of a character can do (R195, R198): a new event, the newest one grown, or a full queue. -/
theorem Block.postChar_cases (p : Params) (n : Block) :
    (p.evqCap ≤ n.evq.length ∧ n.postChar p = { n with condQueue := true })
    ∨ (n.evq.length < p.evqCap ∧ ∃ cs d, n.postChar p = { n with evq := n.evq ++ [.data 1], choices := cs, drawn := d })
    ∨ (n.evq.length < p.evqCap ∧ ∃ pre k cs d, n.evq = pre ++ [.data k]
        ∧ n.postChar p = { n with evq := pre ++ [.data (k + 1)], choices := cs, drawn := d }) := by
  unfold Block.postChar
  split
  · rename_i m hm
    obtain ⟨pre, hpre⟩ := List.getLast?_eq_some_iff.mp hm
    split
    · rename_i hroom
      obtain ⟨cs, d, hd⟩ := n.pick_snd 2
      split
      · refine .inr (.inl ⟨hroom, cs, d, ?_⟩)
        simp [hd, Block.post, hroom]
      · refine .inr (.inr ⟨hroom, pre, m, cs, d, hpre, ?_⟩)
        simp [hd, hpre]
    · rename_i hroom
      exact .inl ⟨Nat.not_lt.mp hroom, by simp [Block.post, hroom]⟩
  · rcases n.post_cases p (.data 1) with ⟨h, h'⟩ | ⟨h, h'⟩
    · exact .inr (.inl ⟨h, n.choices, n.drawn, by rw [h']⟩)
    · exact .inl ⟨h, h'⟩

/-- Everything the quiet timeout's reaction can do (R207). -/
theorem Block.handleTimeout_cases (n : Block) :
    (n.txPhase = .idle ∧ n.handleTimeout = .next ((n.report .quietTimeout).resyncNow .loop))
    ∨ (n.txPhase ≠ .idle ∧ n.handleTimeout = .refused .txBusy) := by
  by_cases h : n.txPhase = .idle
  · exact .inl ⟨h, by simp [Block.handleTimeout, Block.txBusy, h]⟩
  · exact .inr ⟨h, by simp [Block.handleTimeout, Block.txBusy, h]⟩

/-- Everything a wait with nothing pending can do: go on, or select the timeout (R199 (d), log 13, log 23). -/
theorem Block.waitQuiet_cases (n : Block) :
    ∃ cs d, n.waitQuiet = .next { n with choices := cs, drawn := d }
      ∨ n.waitQuiet = Block.handleTimeout { n with choices := cs, drawn := d } := by
  obtain ⟨cs, d, hd⟩ := n.pick_snd 2
  by_cases h0 : (n.pick 2).1 = 0
  · exact ⟨cs, d, .inl (by simp [Block.waitQuiet, h0, hd])⟩
  · exact ⟨cs, d, .inr (by simp [Block.waitQuiet, h0, hd])⟩

/-- Everything a wait with something pending can do (R199 (a) to (c)). -/
theorem Block.waitPending_cases (p : Params) (n : Block) :
    ∃ cs d l, n.waitPending p = Block.loopStep p { n with choices := cs, drawn := d } l
      ∧ (l = n.pending.getD (n.pick n.pending.length).1 .event) := by
  obtain ⟨cs, d, hd⟩ := n.pick_snd n.pending.length
  exact ⟨cs, d, _, by simp only [Block.waitPending, hd], rfl⟩

/-- Right after reset, with nothing issued, the block waits. -/
theorem step_reset : step State.reset = .next State.reset := by
  unfold step State.fetch fetchOwn State.moves State.reset
  cases Config.params.forwarding <;> rfl

end Sys2Proof.Machine
end

