-- ==== Sys2Proof/Laws/PerInstr.lean ====
section
/-! SUPPORT. A statement about every operation as syntax: it is presented in its row's format, a request under the index
of 30_encoding R115. -/

namespace Sys2Proof.Laws.Indexed

/-- The index of R115; none for the wire formats. -/
def index : Instr → Option Byte
  | .crc8Clr => some 0x01
  | .crc8Upd _ => some 0x02
  | .crc8Rd => some 0x03
  | .crc8Blk _ => some 0x04
  | .crc8Chk _ _ => some 0x05
  | .decode _ _ => some 0x10
  | .encode _ => some 0x11
  | .classify _ => some 0x12
  | .fxLocate _ _ _ => some 0x20
  | .fxU _ _ _ => some 0x21
  | .fxS _ _ _ => some 0x22
  | .fxS24 _ _ => some 0x23
  | .fxBit _ _ _ => some 0x24
  | .lineChar _ => some 0x30
  | .lineBreak => some 0x31
  | .rxWait => some 0x32
  | .rxEvData _ => some 0x33
  | .rxEvBreak => some 0x34
  | .rxEvRingovf => some 0x35
  | .rxEvQfull => some 0x36
  | .rxEvTimeout => some 0x37
  | .rxDeliver _ => some 0x38
  | .cbReturn => some 0x39
  | .txStart _ _ => some 0x40
  | .txByte => some 0x41
  | .txGap => some 0x42
  | .txBrkAssert => some 0x43
  | .txBrkRelease => some 0x44
  | .txSendbreak _ => some 0x45
  | .dlyStart _ => some 0x46
  | .dlyExpire => some 0x47
  | .cfgLine => some 0x50
  | .cbRegister _ => some 0x51
  | .rxFlush => some 0x52
  | .resync _ => some 0x53
  | .listenStart => some 0x54
  | .reset => some 0x55
  | .ch _ => none
  | .brk _ => none
  | .poll1 _ => none
  | .poll2 _ _ => none
  | .decXrd _ => none
  | .decXwr _ => none
  | .decLeg _ => none
  | .decTooshort _ => none
  | .encLegRd _ => none
  | .encLegWr _ => none
  | .encXRd _ => none
  | .encXWr _ => none

/-- The first byte of a request is its index; a wire format is no request. -/
def Statement (i : Instr) : Prop :=
  match encode i with
  | .op bytes => bytes.head? = index i
  | .line _ | .level _ | .poll _ | .frame _ | .telegram _ | .echo => index i = none

theorem crc8Clr : Statement (.crc8Clr) := rfl
theorem crc8Upd (b : Byte) : Statement (.crc8Upd b) := rfl
theorem crc8Rd : Statement (.crc8Rd) := rfl
theorem crc8Blk (buf : List Byte) : Statement (.crc8Blk buf) := rfl
theorem crc8Chk (raw : List Byte) (len : Nat) : Statement (.crc8Chk raw len) := rfl
theorem decode (raw : List Byte) (len : Nat) : Statement (.decode raw len) := rfl
theorem encode (t : Telegram) : Statement (.encode t) := rfl
theorem classify (len : Nat) : Statement (.classify len) := rfl
theorem fxLocate (t : Telegram) (pos : Nat) (w : Nat) : Statement (.fxLocate t pos w) := rfl
theorem fxU (t : Telegram) (pos : Nat) (w : Nat) : Statement (.fxU t pos w) := rfl
theorem fxS (t : Telegram) (pos : Nat) (w : Nat) : Statement (.fxS t pos w) := rfl
theorem fxS24 (t : Telegram) (pos : Nat) : Statement (.fxS24 t pos) := rfl
theorem fxBit (t : Telegram) (pos : Nat) (bit : Nat) : Statement (.fxBit t pos bit) := rfl
theorem lineChar (b : Byte) : Statement (.lineChar b) := rfl
theorem lineBreak : Statement (.lineBreak) := rfl
theorem rxWait : Statement (.rxWait) := rfl
theorem rxEvData (n : Nat) : Statement (.rxEvData n) := rfl
theorem rxEvBreak : Statement (.rxEvBreak) := rfl
theorem rxEvRingovf : Statement (.rxEvRingovf) := rfl
theorem rxEvQfull : Statement (.rxEvQfull) := rfl
theorem rxEvTimeout : Statement (.rxEvTimeout) := rfl
theorem rxDeliver (frame : List Byte) : Statement (.rxDeliver frame) := rfl
theorem cbReturn : Statement (.cbReturn) := rfl
theorem txStart (bytes : List Byte) (ctx : Ctx) : Statement (.txStart bytes ctx) := rfl
theorem txByte : Statement (.txByte) := rfl
theorem txGap : Statement (.txGap) := rfl
theorem txBrkAssert : Statement (.txBrkAssert) := rfl
theorem txBrkRelease : Statement (.txBrkRelease) := rfl
theorem txSendbreak (ctx : Ctx) : Statement (.txSendbreak ctx) := rfl
theorem dlyStart (d : Delay) : Statement (.dlyStart d) := rfl
theorem dlyExpire : Statement (.dlyExpire) := rfl
theorem cfgLine : Statement (.cfgLine) := rfl
theorem cbRegister (f : Nat) : Statement (.cbRegister f) := rfl
theorem rxFlush : Statement (.rxFlush) := rfl
theorem resync (ctx : Ctx) : Statement (.resync ctx) := rfl
theorem listenStart : Statement (.listenStart) := rfl
theorem reset : Statement (.reset) := rfl
theorem ch (b : Byte) : Statement (.ch b) := rfl
theorem brk (lowBits : Nat) : Statement (.brk lowBits) := rfl
theorem poll1 (b : Byte) : Statement (.poll1 b) := rfl
theorem poll2 (b0 : Byte) (b1 : Byte) : Statement (.poll2 b0 b1) := rfl
theorem decXrd (raw : List Byte) : Statement (.decXrd raw) := rfl
theorem decXwr (raw : List Byte) : Statement (.decXwr raw) := rfl
theorem decLeg (raw : List Byte) : Statement (.decLeg raw) := rfl
theorem decTooshort (raw : List Byte) : Statement (.decTooshort raw) := rfl
theorem encLegRd (t : Telegram) : Statement (.encLegRd t) := rfl
theorem encLegWr (t : Telegram) : Statement (.encLegWr t) := rfl
theorem encXRd (t : Telegram) : Statement (.encXRd t) := rfl
theorem encXWr (t : Telegram) : Statement (.encXWr t) := rfl

end Sys2Proof.Laws.Indexed
end

