-- ==== Sys2Proof/Tests/Slice0.lean ====
section
/-! SUPPORT. The author's tests. Expected results come from spec/95_test_vectors.md and the examples of the rules; the
parameters are the example values at the head of that file. Then a witness for every statement with hypotheses. -/

namespace Sys2Proof.Tests

open Sys2Proof.Machine

/-! ## The example block -/

/-- The candidate table of 40_crc R132, from the closed form the rule gives. -/
def tableByte (i : Nat) : Byte := BitVec.ofNat 8 (2 * i) ^^^ (if i < 128 then 0x00 else 0x19)

/-- The example parameters of 95_test_vectors, with two units or one. -/
def params (two : Bool) : Params :=
  { crc8Table := ⟨((List.range 256).map tableByte).toArray, by simp⟩
    crc8Init := 0x00
    bitTimeExtra := 0
    quietExtra := 0
    byteGap := 1
    breakHoldExtra := 0
    rxBufExtra := 0
    txMaxExtra := 33
    ringExtra := 63
    evqExtra := 15
    lineEcho := true
    addressMask := 0x80
    forwarding := two }

/-- The booted idle unit of 95_test_vectors section 3. -/
def booted : Block := { Block.powerOn (params false) .first with listening := true, cb := some 1 }

/-- A machine of one unit. -/
def on (n : Block) : State :=
  { params := params false, first := n, second := none, cur := .first, inbox := [], turns := [], turn := 0 }

/-- A machine of two units, the second addressed. -/
def onSecond (n : Block) : State :=
  { params := params true, first := booted, second := some { n with id := .second }, cur := .second, inbox := [],
    turns := [], turn := 0 }

/-- The unit after operations, if they all complete. -/
def after (is : List Instr) (s : State) : Option Block :=
  match execAll is s with
  | .next t => t.here?
  | _ => none

/-- The last thing that left the unit. -/
def last (is : List Instr) (s : State) : Option Output := (after is s).bind fun n => n.out.getLast?

/-- The telegram `E` of V1. -/
def telegramE : Telegram :=
  { operation := .write, sourceId := 0x08, destinationId := 0x19, typeId := 0x01E4, offset := 0
    data := [0x00, 0x2D, 0x2D, 0x00, 0x00, 0xC8, 0x3D, 0x02, 0x6C, 0x64, 0x29, 0x03, 0x00, 0x02, 0x48, 0x00, 0x00,
      0x00, 0x00, 0x01, 0xED, 0x11, 0x00, 0x02, 0x6C, 0x00, 0x00] }

/-- The frame of V1. -/
def frameV1 : List Byte := [0x88, 0x19, 0xFF, 0x00, 0x00, 0xE4] ++ telegramE.data ++ [0x5E]

/-- A telegram from 0B to 08. -/
def tg (op : Operation) (ty : Half) (off : Byte) (data : List Byte) : Telegram :=
  { operation := op, sourceId := 0x0B, destinationId := 0x08, typeId := ty, offset := off, data := data }

/-! ## Ill-formed operations are refused by the check (WellFormed) -/

theorem test_wf_refuses_operands :
    (Instr.crc8Chk [] 0).wf = false ∧ (Instr.crc8Chk [1, 2] 1).wf = false ∧ (Instr.decode [1, 2] 3).wf = false
    ∧ (Instr.fxLocate telegramE 0 0).wf = false ∧ (Instr.fxU telegramE 0 0).wf = false
    ∧ (Instr.fxU telegramE 0 5).wf = false ∧ (Instr.fxS telegramE 0 0).wf = false ∧ (Instr.fxS telegramE 0 5).wf = false
    ∧ (Instr.fxBit telegramE 0 8).wf = false ∧ (Instr.rxEvData 0).wf = false ∧ (Instr.brk 10).wf = false := by decide

theorem test_wf_refuses_numbers :
    (Instr.classify 4294967296).wf = false ∧ (Instr.fxLocate telegramE 4294967296 1).wf = false
    ∧ (Instr.fxLocate telegramE 0 4294967296).wf = false ∧ (Instr.fxU telegramE 4294967296 1).wf = false
    ∧ (Instr.fxS telegramE 4294967296 1).wf = false ∧ (Instr.fxS24 telegramE 4294967296).wf = false
    ∧ (Instr.fxBit telegramE 4294967296 0).wf = false ∧ (Instr.rxEvData 4294967296).wf = false
    ∧ (Instr.cbRegister 4294967296).wf = false := by decide

theorem test_wf_refuses_rows :
    (Instr.decXrd [0x8B, 0x08, 0xFF, 0, 0, 0, 0]).wf = false ∧ (Instr.decXwr [0x8B, 0x88, 0xFF, 0, 0, 0, 0, 0]).wf = false
    ∧ (Instr.decLeg [0x8B, 0x08, 0xFF, 0, 1, 0xEE]).wf = false ∧ (Instr.decTooshort [1, 2, 3, 4, 5]).wf = false
    ∧ (Instr.encLegRd (tg .write 2 0 [])).wf = false ∧ (Instr.encLegWr (tg .write 0x100 0 [])).wf = false
    ∧ (Instr.encXRd (tg .read 0xFF 0 [])).wf = false ∧ (Instr.encXWr (tg .readWithData 0x100 0 [])).wf = false := by decide

/-- A byte sequence too long for the length field of a request is ill formed. -/
theorem test_wf_refuses_long_sequences (bs : List Byte) (h : 4294967296 ≤ bs.length) :
    (Instr.crc8Blk bs).wf = false ∧ (Instr.encode { telegramE with data := bs }).wf = false
    ∧ (Instr.rxDeliver bs).wf = false ∧ (Instr.txStart bs .ext).wf = false
    ∧ (Instr.fxS24 { telegramE with data := bs } 0).wf = false := by
  simp [Instr.wf, fitsBytes, fitsNat]; omega

/-! ## Words written out from the encodings -/

theorem test_decode_crc_words :
    decode (.op [0x01]) = .ok .crc8Clr ∧ decode (.op [0x02, 0x88]) = .ok (.crc8Upd 0x88)
    ∧ decode (.op [0x03]) = .ok .crc8Rd ∧ decode (.op [0x04, 0, 0, 0, 2, 0x80, 0x00]) = .ok (.crc8Blk [0x80, 0x00])
    ∧ decode (.op [0x05, 0, 0, 0, 1, 0, 0, 0, 1, 0x00]) = .ok (.crc8Chk [0x00] 1) := by decide

theorem test_decode_codec_words :
    decode (.op [0x10, 0, 0, 0, 1, 0, 0, 0, 1, 0x8B]) = .ok (.decode [0x8B] 1)
    ∧ decode (.op [0x11, 2, 0x0B, 0x08, 0x01, 0x00, 5, 0, 0, 0, 2, 0xAA, 0xBB])
        = .ok (.encode (tg .write 0x0100 5 [0xAA, 0xBB]))
    ∧ decode (.op [0x12, 0, 0, 0, 34]) = .ok (.classify 34) := by decide

theorem test_decode_field_words :
    decode (.op [0x20, 0, 0, 0, 26, 0, 0, 0, 1, 0, 0x0B, 0x08, 0, 2, 0, 0, 0, 0, 0])
        = .ok (.fxLocate (tg .read 2 0 []) 26 1)
    ∧ decode (.op [0x21, 0, 0, 0, 7, 0, 0, 0, 2, 0, 0x0B, 0x08, 0, 2, 0, 0, 0, 0, 0]) = .ok (.fxU (tg .read 2 0 []) 7 2)
    ∧ decode (.op [0x22, 0, 0, 0, 7, 0, 0, 0, 2, 0, 0x0B, 0x08, 0, 2, 0, 0, 0, 0, 0]) = .ok (.fxS (tg .read 2 0 []) 7 2)
    ∧ decode (.op [0x23, 0, 0, 1, 0, 3, 0x0B, 0x08, 0, 2, 0, 0, 0, 0, 0]) = .ok (.fxS24 (tg .broadcast 2 0 []) 256)
    ∧ decode (.op [0x24, 0, 0, 0, 11, 0, 0, 0, 7, 1, 0x0B, 0x08, 0, 2, 0, 0, 0, 0, 0])
        = .ok (.fxBit (tg .readWithData 2 0 []) 11 7) := by decide

theorem test_decode_receive_words :
    decode (.op [0x30, 0x8B]) = .ok (.lineChar 0x8B) ∧ decode (.op [0x31]) = .ok .lineBreak
    ∧ decode (.op [0x32]) = .ok .rxWait ∧ decode (.op [0x33, 0, 0, 0, 2]) = .ok (.rxEvData 2)
    ∧ decode (.op [0x34]) = .ok .rxEvBreak ∧ decode (.op [0x35]) = .ok .rxEvRingovf
    ∧ decode (.op [0x36]) = .ok .rxEvQfull ∧ decode (.op [0x37]) = .ok .rxEvTimeout
    ∧ decode (.op [0x38, 0, 0, 0, 1, 0x8B]) = .ok (.rxDeliver [0x8B]) ∧ decode (.op [0x39]) = .ok .cbReturn := by decide

theorem test_decode_transmit_words :
    decode (.op [0x40, 0, 0, 0, 0, 1, 0x8B]) = .ok (.txStart [0x8B] .loop) ∧ decode (.op [0x41]) = .ok .txByte
    ∧ decode (.op [0x42]) = .ok .txGap ∧ decode (.op [0x43]) = .ok .txBrkAssert
    ∧ decode (.op [0x44]) = .ok .txBrkRelease ∧ decode (.op [0x45, 1]) = .ok (.txSendbreak .ext)
    ∧ decode (.op [0x46, 0]) = .ok (.dlyStart .byteGap) ∧ decode (.op [0x46, 1]) = .ok (.dlyStart .breakHold)
    ∧ decode (.op [0x47]) = .ok .dlyExpire := by decide

theorem test_decode_system_words :
    decode (.op [0x50]) = .ok .cfgLine ∧ decode (.op [0x51, 0, 0, 0, 7]) = .ok (.cbRegister 7)
    ∧ decode (.op [0x52]) = .ok .rxFlush ∧ decode (.op [0x53, 1]) = .ok (.resync .ext)
    ∧ decode (.op [0x54]) = .ok .listenStart ∧ decode (.op [0x55]) = .ok .reset := by decide

/-- 0x8B is 10001011: bit 0 first after the low start bit, then the high stop bit (R91); eleven low bit times (R92). -/
theorem test_decode_line_words :
    decode (.line [false, true, true, false, true, false, false, false, true, true]) = .ok (.ch 0x8B)
    ∧ decode (.line [false, false, false, false, false, false, false, false, false, false, false]) = .ok (.brk 11)
    ∧ decode (.poll [0x8B]) = .ok (.poll1 0x8B) ∧ decode (.poll [0x8B, 0x88]) = .ok (.poll2 0x8B 0x88) := by decide

/-- Frames of K5, K6, K7, K39 and telegrams of K1, K3, K5, K6. -/
theorem test_decode_row_words :
    decode (.frame [0x8B, 0x88, 0xFF, 0, 0x1B, 0, 0xE4, 0x96]) = .ok (.decXrd [0x8B, 0x88, 0xFF, 0, 0x1B, 0, 0xE4, 0x96])
    ∧ decode (.frame [0x8B, 0x08, 0xFF, 5, 0, 0, 0xAA, 0xBB, 0x91])
        = .ok (.decXwr [0x8B, 0x08, 0xFF, 5, 0, 0, 0xAA, 0xBB, 0x91])
    ∧ decode (.frame [0x8B, 0x08, 0xFF, 0, 0xFB]) = .ok (.decLeg [0x8B, 0x08, 0xFF, 0, 0xFB])
    ∧ decode (.frame [0x8B, 0x88, 2, 0x54]) = .ok (.decTooshort [0x8B, 0x88, 2, 0x54])
    ∧ decode (.telegram (tg .read 2 0 [0x20])) = .ok (.encLegRd (tg .read 2 0 [0x20]))
    ∧ decode (.telegram (tg .write 0x1A 0 [0x2D, 0])) = .ok (.encLegWr (tg .write 0x1A 0 [0x2D, 0]))
    ∧ decode (.telegram (tg .read 0x1E4 0 [0x1B])) = .ok (.encXRd (tg .read 0x1E4 0 [0x1B]))
    ∧ decode (.telegram (tg .write 0x100 5 [0xAA, 0xBB])) = .ok (.encXWr (tg .write 0x100 5 [0xAA, 0xBB])) := by decide

theorem test_decode_rejects_by_name :
    decode (.op []) = .error .empty ∧ decode (.op [0x06]) = .error (.reservedIndex 0x06)
    ∧ decode (.op [0x02]) = .error .truncated ∧ decode (.op [0x45, 2]) = .error .badOperand
    ∧ decode (.op [0x01, 1]) = .error .trailing ∧ decode (.poll [1, 2, 3]) = .error .badPoll
    ∧ decode (.line [false, true, true, false, true, false, false, false, true, false]) = .error .badLevels
    ∧ decode (.line (List.replicate 10 false)) = .error .badLevels ∧ decode .echo = .error .notWhole := by decide

/-- Words of the opcode table as the host numbers them. -/
theorem test_table_words :
    decodeTableWord 8 0x01 = some .crc8Clr ∧ decodeTableWord 8 0x55 = some .reset
    ∧ decodeTableWord 10 0b0110100011 = some (.ch 0x8B) ∧ decodeTableWord 11 0 = some (.brk 11)
    ∧ decodeTableWord 24 0x8B88FF = some (.decXrd [0x8B, 0x88, 0xFF, 0, 0, 0, 0, 0]) := by decide

/-- Every index of R115 is an operation, and no other index is. -/
theorem test_every_index :
    ((List.range 256).filter fun x => (decodeTableWord 8 x).isSome) =
      [0x01, 0x02, 0x03, 0x04, 0x05, 0x10, 0x11, 0x12, 0x20, 0x21, 0x22, 0x23, 0x24, 0x30, 0x31, 0x32, 0x33, 0x34, 0x35,
        0x36, 0x37, 0x38, 0x39, 0x40, 0x41, 0x42, 0x43, 0x44, 0x45, 0x46, 0x47, 0x50, 0x51, 0x52, 0x53, 0x54, 0x55] := by
  decide +kernel

/-! ## CRC unit -/

theorem test_crc_blocks_A1_A6 :
    last [.crc8Blk []] (on booted) = some (.ret (.byte 0x00))
    ∧ last [.crc8Blk [0x80, 0x00]] (on booted) = some (.ret (.byte 0x19)) := by decide

theorem test_crc_block_A9 : crc8 (params false) [0x8B, 0x88, 0x02, 0x00, 0x20] = 0x74 := by decide

theorem test_crc_check_A10_A11 :
    last [.crc8Chk [0x8B, 0x88, 0x02, 0x00, 0x20, 0x74] 6] (on booted) = some (.ret (.bool true))
    ∧ last [.crc8Chk [0x8B, 0x88, 0x02, 0x00, 0x20, 0x75] 6] (on booted) = some (.ret (.bool false)) := by decide

/-- R134's example and P5: `crc_acc` 8B, then 88 gives 87. -/
theorem test_crc_streaming :
    (after [.crc8Clr, .crc8Upd 0x8B, .crc8Upd 0x88] (on { booted with crcAcc := 0x74 })).map (·.crcAcc) = some 0x87
    ∧ last [.crc8Clr, .crc8Upd 0x8B, .crc8Rd] (on booted) = some (.ret (.byte 0x8B)) := by decide

/-! ## Codec -/

theorem test_decode_V1 : decodeFrame (params false) frameV1 = .telegram telegramE := by decide +kernel

theorem test_encode_V1 : encodeFrame (params false) telegramE = frameV1 := by decide +kernel

theorem test_decode_K31_K36 :
    last [.decode [0x88, 0x8B, 2, 0, 0x1B, 0x67] 6] (on booted) = some (.ret (.telegram
      { operation := .read, sourceId := 0x08, destinationId := 0x0B, typeId := 2, offset := 0, data := [0x1B] }))
    ∧ last [.decXrd [0x8B, 0x88, 0xFF, 0, 5, 0, 0xE4, 0xAA, 0xBB, 0x65]] (on booted)
      = some (.ret (.telegram (tg .read 0x1E4 0 [5]))) := by decide

/-- K30: the received type wraps; K7: five bytes are legacy whatever byte 2 is. -/
theorem test_decode_K30_K7 :
    last [.decXwr [0x8B, 0x08, 0xFF, 0, 0xFF, 0x10, 0x77, 0x17]] (on booted)
      = some (.ret (.telegram (tg .write 0x10 0 [0x77])))
    ∧ last [.decLeg [0x8B, 0x08, 0xFF, 0, 0xFB]] (on booted) = some (.ret (.telegram (tg .write 0xFF 0 []))) := by decide

theorem test_decode_failures_K8_K37_K39 :
    last [.decode [0x8B, 0x88, 0xFF, 0, 0, 0x8B] 6] (on booted) = some (.ret .tooShort)
    ∧ last [.decode [0x8B, 0x88, 2, 0, 0x20, 0x75] 6] (on booted) = some (.ret .checksumError)
    ∧ last [.decTooshort [0x8B, 0x88, 2, 0x54]] (on booted) = some (.ret .tooShort) := by decide

theorem test_encode_K1_K5 :
    last [.encLegRd (tg .read 2 0 [0x20])] (on booted) = some (.ret (.bytes [0x8B, 0x88, 2, 0, 0x20, 0x74]))
    ∧ last [.encXRd (tg .read 0x1E4 0 [0x1B])] (on booted)
      = some (.ret (.bytes [0x8B, 0x88, 0xFF, 0, 0x1B, 0, 0xE4, 0x96])) := by decide

theorem test_encode_K4_K13 :
    last [.encLegWr (tg .write 0x1A 3 [])] (on booted) = some (.ret (.bytes [0x8B, 0x08, 0x1A, 3, 0x2B]))
    ∧ last [.encXWr (tg .write 0xFFFF 0 [0x55])] (on booted)
      = some (.ret (.bytes [0x8B, 0x08, 0xFF, 0, 0xFE, 0xFF, 0x55, 0xF6])) := by decide

/-- K12: a read of destination 0 leaves the read flag clear. K14: only the first data byte of a read is sent. -/
theorem test_encode_K12_K14 :
    last [.encode { tg .read 2 0 [0x20] with destinationId := 0 }] (on booted)
      = some (.ret (.bytes [0x8B, 0x00, 2, 0, 0x20, 0x50]))
    ∧ last [.encode (tg .readWithData 2 4 [0x10, 0x99])] (on booted)
      = some (.ret (.bytes [0x8B, 0x88, 2, 4, 0x10, 0x4C])) := by decide

theorem test_classify_lengths :
    [0, 1, 2, 3, 6, 7, 34].map classOf = [.other, .poll, .poll, .other, .other, .telegram, .telegram]
    ∧ last [.classify 6] (on booted) = some (.ret (.frameClass .other)) := by decide

/-! ## Fields -/

theorem test_locate_F2_F3 :
    last [.fxLocate telegramE 26 1] (on booted) = some (.ret (.index 26))
    ∧ last [.fxLocate telegramE 26 2] (on booted) = some (.ret .absent) := by decide

theorem test_unsigned_F7_F18 :
    last [.fxU telegramE 19 3] (on booted) = some (.ret (.unsigned 126225))
    ∧ last [.fxU (tg .write 2 10 [0x80, 0, 0, 0x7F]) 13 1] (on booted) = some (.ret (.unsigned 0x7F)) := by decide

theorem test_signed_F9_F10 :
    last [.fxS telegramE 20 1] (on booted) = some (.ret (.signed 0xFFFFFFED))
    ∧ last [.fxS telegramE 5 2] (on booted) = some (.ret (.signed 0xFFFFC83D)) := by decide

theorem test_signed24_F12_F17 :
    last [.fxS24 telegramE 20] (on booted) = some (.ret (.signed 0xFFED1100))
    ∧ last [.fxS24 (tg .write 2 10 [0x80, 0, 0, 0x7F]) 10] (on booted) = some (.ret (.signed 0xFF800000)) := by decide

theorem test_bit_F14_F15_F16 :
    last [.fxBit telegramE 11 1] (on booted) = some (.ret (.bool true))
    ∧ last [.fxBit telegramE 11 2] (on booted) = some (.ret (.bool false))
    ∧ last [.fxBit telegramE 27 0] (on booted) = some (.ret .absent) := by decide

/-! ## Receive framer -/

theorem test_receive_X1_X2 :
    (after [.lineChar 0x8B, .lineBreak] (on booted)).map (fun n => (n.ring, n.evq)) = some ([0x8B], [.data 1, .brk]) := by
  decide

/-- The line receiver works before LISTEN.START (S4), the loop context does not. -/
theorem test_receive_S4 :
    (after [.ch 0x8B, .brk 12] (on (Block.powerOn (params false) .first))).map (fun n => (n.ring, n.evq)) = some ([0x8B], [.data 1, .brk])
    ∧ exec .rxWait (on (Block.powerOn (params false) .first)) = .refused .loopNotFree := ⟨by decide, rfl⟩

theorem test_receive_X3 :
    (after [.rxEvData 2] (on { booted with rxCount := 3 })).map (·.rxCount) = some 5 := by decide

theorem test_receive_X4 :
    (after [.rxEvBreak] (on { booted with ring := [0x8B], rxCount := 1 })).map
      (fun n => (n.out, n.ring, n.rxCount, n.inCallback, Memory.read? n.rxBuf 0))
      = some ([.frame [0x8B] 1 .poll], [], 0, true, some 0x8B) := by decide

theorem test_receive_X6 :
    (after [.rxEvBreak] (on { booted with ring := List.replicate 35 0x55 ++ [0x8B], rxCount := 35 })).map
      (fun n => (n.out, n.ring, n.rxCount, n.inCallback)) = some ([.warn (.frameTooLong 35)], [0x8B], 0, false) := by decide

theorem test_receive_X7_X8 :
    after [.lineChar 1] (on { booted with ring := List.replicate 64 0 })
      = some { booted with ring := List.replicate 64 0, condRing := true }
    ∧ after [.lineBreak] (on { booted with evq := List.replicate 16 .brk })
      = some { booted with evq := List.replicate 16 .brk, condQueue := true } := by decide

theorem test_receive_X9_and_queue_full :
    after [.rxEvRingovf] (on { booted with ring := [1], evq := [.data 1], condRing := true, rxCount := 2 })
      = some { booted with out := [.warn .ringOverflow] }
    ∧ after [.rxEvQfull] (on { booted with ring := [1], evq := [.data 1], condQueue := true, rxCount := 2 })
      = some { booted with out := [.warn .queueFull] } := by decide

/-- X10: both groupings deliver the same frame. -/
theorem test_receive_X10_grouping :
    ((after [.rxWait, .rxWait, .rxWait] (on { booted with ring := [0x8B, 0x88], evq := [.data 1, .data 1, .brk] })).map
      (·.out) = some [.frame [0x8B, 0x88] 2 .poll])
    ∧ (after [.rxWait, .rxWait] (on { booted with ring := [0x8B, 0x88], evq := [.data 2, .brk] })).map
      (·.out) = some [.frame [0x8B, 0x88] 2 .poll] := by decide

/-- X11: with no callback the frame is dropped. -/
theorem test_receive_X11 :
    (after [.rxEvBreak] (on { booted with cb := none, ring := [0x8B], rxCount := 1 })).map
      (fun n => (n.out, n.ring, n.rxCount, n.inCallback)) = some ([], [], 0, false) := by decide

/-- P4, steps 1 to 3: silence. -/
theorem test_timeout_P4 :
    (after [.rxEvTimeout] (on booted)).map (fun n => (n.out, n.txCtx, n.txPhase, n.txLen))
      = some ([.warn .quietTimeout], .loop, .brkAssert, 0)
    ∧ (after [.rxWait] (on { booted with choices := [1] })).map (·.txPhase) = some .brkAssert := by decide

/-- R199 (d), R253, 93 U7: while a transmission of another context runs a wait goes on or selects the timeout, refused. -/
theorem test_wait_during_transmission :
    (after [.rxWait] (on { booted with txPhase := .gap, choices := [0] })).map (fun n => (n.txPhase, n.out))
      = some (.gap, [])
    ∧ exec .rxWait (on { booted with txPhase := .gap, choices := [1] }) = .refused .txBusy := ⟨by decide, rfl⟩

/-- 93 U6: a line error is nothing or a character with any byte. -/
theorem test_line_error :
    step { on { booted with hidden := { shift := none, lowTime := 3 }, choices := [0] } with
        inbox := [{ dest := .first, code := .level true }] } = .next (on booted)
    ∧ step { on { booted with hidden := { shift := none, lowTime := 3 }, choices := [8] } with
        inbox := [{ dest := .first, code := .level true }] } = .next (on { booted with ring := [7], evq := [.data 1] }) :=
  ⟨rfl, rfl⟩

theorem test_deliver : last [.rxDeliver [1, 2, 3]] (on booted) = some (.frame [1, 2, 3] 3 .other) := by decide

/-- P1 steps 1 to 4 in one row each: a poll frame is received, and delivered by waits of the loop context. -/
theorem test_polls :
    (after [.poll1 0x8B] (on booted)).map (fun n => (n.ring, n.evq)) = some ([0x8B], [.data 1, .brk])
    ∧ last [.poll1 0x8B, .rxWait, .rxWait] (on booted) = some (.frame [0x8B] 1 .poll)
    ∧ last [.poll2 0x8B 0x88, .rxWait, .rxWait] (on { booted with choices := [1] }) = some (.frame [0x8B, 0x88] 2 .poll) := by
  decide

/-- R276: a poll frame that comes during a callback waits. -/
theorem test_poll_during_callback :
    (after [.poll2 0x8B 0x88] (on { booted with inCallback := true, choices := [0] })).map
      (fun n => (n.ring, n.evq, n.out)) = some ([0x8B, 0x88], [.data 1, .data 1, .brk], []) := by decide

/-- P1 step 9: CB.RETURN is enabled only when the transmission of the callback has ended. -/
theorem test_callback_return :
    (after [.cbReturn] (on { booted with inCallback := true })).map (·.inCallback) = some false
    ∧ exec .cbReturn (on { booted with inCallback := true, txCtx := .loop, txPhase := .gap })
      = .refused .heldByTransmission := ⟨by decide, rfl⟩

/-- A character bit by bit, then a break: what each bit time completes. -/
theorem test_levels :
    listen Hidden.idle ([false, true, true, false, true, false, false, false, true, true] ++ List.replicate 11 false ++ [true])
      = (Hidden.idle, [.char 0x8B, .brk 11]) := by decide

/-! ## Transmit sequencer -/

theorem test_transmit_T1_T2 :
    after [.txStart [] .ext] (on booted) = some { booted with out := [.ret (.bool false)] }
    ∧ after [.txStart (List.replicate 35 0) .ext] (on booted) = some { booted with out := [.ret (.bool false)] } := by decide

theorem test_transmit_T3 :
    (after [.txStart (List.replicate 34 0) .ext] (on booted)).map (fun n => (n.txLen, n.txPhase)) = some (34, .byte) := by
  decide

theorem test_transmit_T4 :
    (after (.txStart [0x8B] .loop :: sendSteps 1) (on booted)).map (fun n => (n.out, n.txLen, n.txIdx, n.txPhase, n.txd))
      = some ([.lineChar 0x8B, .lineLow, .lineRelease, .ret (.bool true)], 1, 1, .idle, .released) := by decide

theorem test_transmit_T5_T6 :
    (after [.txGap] (on { booted with txPhase := .gap, txIdx := 5, txLen := 6, txd := .char 1 })).map
      (fun n => (n.txIdx, n.txPhase, n.txd)) = some (6, .brkAssert, .released)
    ∧ (after [.txGap] (on { booted with txPhase := .gap, txIdx := 0, txLen := 6, txd := .char 1 })).map
      (fun n => (n.txIdx, n.txPhase)) = some (1, .byte) := by decide

theorem test_transmit_T7_T8 :
    exec (.txStart [1] .ext) (on { booted with txPhase := .byte }) = .refused .txBusy
    ∧ (after (.txSendbreak .ext :: breakSteps) (on booted)).map (fun n => (n.out, n.txLen))
      = some ([.lineLow, .lineRelease], 0) := ⟨rfl, by decide⟩

/-- The gap waits for the delay generator. -/
theorem test_delay :
    exec .txGap (on { booted with txPhase := .gap, txLen := 1, dly := some .byteGap }) = .refused .delayRunning
    ∧ (after [.dlyStart .breakHold] (on { booted with txPhase := .brkHold })).map (·.dly) = some (some .breakHold)
    ∧ after [.dlyStart .byteGap, .dlyExpire] (on { booted with txPhase := .gap }) = some { booted with txPhase := .gap } :=
  ⟨rfl, by decide, by decide⟩

/-- R231: DLY.START is issued only by TX.BYTE and TX.BRK.ASSERT, each with its own duration. -/
theorem test_delay_only_in_its_phase :
    exec (.dlyStart .byteGap) (on booted) = .refused .wrongPhase
    ∧ exec (.dlyStart .breakHold) (on { booted with txPhase := .gap }) = .refused .wrongPhase := ⟨rfl, rfl⟩

/-- R75: the echo of a transmission comes back as its characters and a break. -/
theorem test_echo :
    (after (.txStart [0x8B] .ext :: sendSteps 1) (on booted)).map (·.echo) = some [.char 0x8B, .brk] := by decide

/-! ## System operations and reset -/

theorem test_flush_S1 :
    after [.rxFlush] (on { booted with ring := [0x8B, 0x88], evq := [.data 2], crcAcc := 0x74 })
      = some { booted with crcAcc := 0x74 } := by decide

theorem test_resync :
    (after [.resync .ext] (on { booted with ring := [1], rxCount := 1, condQueue := true })).map
      (fun n => (n.ring, n.rxCount, n.condQueue, n.txPhase, n.txCtx, n.listening))
      = some ([], 0, false, .brkAssert, .ext, true) := by decide

theorem test_reset_S3 :
    after [.reset] (on { booted with crcAcc := 0x74, txPhase := .gap, txd := .char 1, ring := [1], inCallback := true })
      = some (Block.powerOn (params false) .first) := by decide

/-- R303: the boot sequence from power-on leaves the booted idle state. -/
theorem test_boot : after [.cfgLine, .cbRegister 1, .listenStart] (on (Block.powerOn (params false) .first)) = some booted := by decide

/-- R255: an operation addressed to the second unit leaves the first alone. -/
theorem test_second_unit :
    exec (.lineChar 7) (onSecond booted) = .next ((onSecond { booted with ring := [7], evq := [.data 1] }))
    ∧ exec .rxFlush { on booted with cur := .second } = .refused .noSuchUnit := ⟨rfl, rfl⟩

/-! ## Steps -/

/-- A word placed for fetch is performed by the next step. -/
theorem test_step_runs_word :
    step ((on { booted with crcAcc := 5 }).withFetchWord 8 0x01) = .next (on booted)
    ∧ step ((on booted).withFetchWord 10 0b0110100011) = .next (on { booted with ring := [0x8B], evq := [.data 1] }) :=
  ⟨rfl, rfl⟩

/-- R257, R114: what the host issues after a delivery. -/
theorem test_host_actions :
    ((on booted).issueAck .first 0x0B).inbox = [{ dest := .first, code := .op [0x40, 0, 0, 0, 0, 1, 0x8B] }]
    ∧ (onSecond { booted with inCallback := true, out := [.frame [9] 1 .poll] }).issueForward.inbox
      = [{ dest := .first, code := .op [0x40, 1, 0, 0, 0, 1, 9] }] := by decide

/-! ## Witnesses: the hypotheses of every statement are met together, each clause at the edge of its range -/

/-- The addressed unit exists: the hypothesis of AccumulatorClearAndRead, StreamingGivesTheBlockCrc,
BlockCrcAndCheckResults, EncodeFrameLayouts, ClassifyByLength, Signed24IsSignedOfThreeBytes, SetUpOperations,
FlushAndResync (its first clause), ResetRestoresPowerOn. -/
theorem witness_addressed_unit :
    (on booted).here? = some booted ∧ (onSecond booted).here? = some { booted with id := .second } := by decide

/-- CrcAppendLaws. -/
theorem witness_CrcAppendLaws : (1 : Byte) ≠ 0 ∧ (0xFF : Byte) ≠ 0 := by decide

/-- The inverse of the candidate table. -/
def tableInverse (x : Byte) : Byte := if x.getLsbD 0 then ((x ^^^ 0x19) >>> 1) ||| 0x80 else x >>> 1

theorem table_left_inverse : ∀ a : Byte, tableInverse ((params false).crc8Table.get a.toFin) = a := by decide +kernel

/-- OneChangedByteIsDetected: the candidate table is a permutation (40_crc R139), and A10 is a frame that passes. -/
theorem witness_OneChangedByteIsDetected :
    (on booted).here? = some booted
    ∧ (∀ a b : Byte, (on booted).params.crc8Table.get a.toFin = (on booted).params.crc8Table.get b.toFin → a = b)
    ∧ (0x88 : Byte) ≠ 0x89
    ∧ crcHolds (on booted).params ([0x8B] ++ 0x88 :: [0x02, 0x00, 0x20] ++ [0x74]) = true := by
  refine ⟨rfl, fun a b h => ?_, by decide, by decide⟩
  rw [← table_left_inverse a, ← table_left_inverse b]
  exact congrArg tableInverse h

/-- DecodeLegacyFrame: a type byte below the marker with a payload; the marker without one. -/
theorem witness_DecodeLegacyFrame :
    (on booted).here? = some booted ∧ ((0xFE : Byte) ≠ 0xFF ∨ ([1] : List Byte) = [])
    ∧ ((0xFF : Byte) ≠ 0xFF ∨ ([] : List Byte) = []) := by decide

/-- DecodeExtendedRead, DecodeExtendedWrite: the edges of the read flag; the short bodies. -/
theorem witness_DecodeExtended :
    (on booted).here? = some booted ∧ 0x80 ≤ (0x80 : Byte).toNat ∧ 0x80 ≤ (0xFF : Byte).toNat
    ∧ (0x00 : Byte).toNat < 0x80 ∧ (0x7F : Byte).toNat < 0x80
    ∧ ([1] : List Byte).length = 1 ∧ ([1, 2] : List Byte).length = 2 := by decide

/-- DecodeFailureOrder: four bytes; four bytes and a wrong CRC; bodies just too short for their layout, and just not. -/
theorem witness_DecodeFailureOrder :
    (on booted).here? = some booted ∧ ([0x8B, 0x88, 2, 0x54] : List Byte).length < 5
    ∧ 4 ≤ ([0x8B, 0x88, 2, 0] : List Byte).length ∧ (0 : Byte) ≠ crc8 (on booted).params [0x8B, 0x88, 2, 0]
    ∧ (5 ≤ ([0, 0x80, 0xFF, 0, 0, 0] : List Byte).length ∧ ([0, 0x80, 0xFF, 0, 0, 0] : List Byte).getD 2 0 = 0xFF
      ∧ 0x80 ≤ (([0, 0x80, 0xFF, 0, 0, 0] : List Byte).getD 1 0).toNat ∧ ([0, 0x80, 0xFF, 0, 0, 0] : List Byte).length < 7)
    ∧ (([0, 0x7F, 0xFF, 0, 0] : List Byte).getD 2 0 = 0xFF ∧ ([0, 0x7F, 0xFF, 0, 0] : List Byte).length < 6)
    ∧ ¬ ((0x80 ≤ (([0, 0x7F, 0xFF, 0, 0, 0] : List Byte).getD 1 0).toNat
        ∧ ([0, 0x7F, 0xFF, 0, 0, 0] : List Byte).length < 7)
      ∨ ([0, 0x7F, 0xFF, 0, 0, 0] : List Byte).length < 6) :=
  ⟨rfl, by decide, by decide, by decide, by decide, by decide, by decide⟩

/-- DecodeRowsAgreeWithDecode: a frame for each row, at the least length of the row. -/
theorem witness_DecodeRowsAgreeWithDecode :
    (on booted).here? = some booted ∧ selectsXrd [0, 0x80, 0xFF, 0, 0, 0] = true ∧ selectsXwr [0, 0x7F, 0xFF, 0, 0, 0] = true
    ∧ selectsLeg [0, 0x80, 0xFF, 0, 0] = true ∧ selectsTooshort [0, 0x80, 0xFF, 0] = true := by decide

/-- EncodeRowsAgreeWithEncode: a telegram for each row, at the edge of the dialects. -/
theorem witness_EncodeRowsAgreeWithEncode :
    (on booted).here? = some booted
    ∧ (tg .readWithData 0xFF 0 []).isExt = false ∧ (tg .readWithData 0xFF 0 []).isRead = true
    ∧ (tg .broadcast 0x100 0 []).isExt = true ∧ (tg .broadcast 0x100 0 []).isRead = false := by decide

/-- TelegramRoundTrip: telegrams inside the domain at its edges, one outside, and a read that comes back changed. -/
theorem witness_TelegramRoundTrip :
    (on booted).here? = some booted ∧ (tg .write 0xFF 0 []).roundTrips ∧ (tg .read 0xFFFF 0xFF [1]).roundTrips
    ∧ ({ operation := .broadcast, sourceId := 0x7F, destinationId := 0, typeId := 0x100, offset := 0, data := [] } :
        Telegram).roundTrips
    ∧ ¬ (tg .write 0xFF 0 [1]).roundTrips
    ∧ (tg .readWithData 2 0 [1, 2]).sourceId.toNat ≤ 0x7F ∧ (tg .readWithData 2 0 [1, 2]).destinationId.toNat ≤ 0x7F
    ∧ (tg .readWithData 2 0 [1, 2]).destinationId ≠ 0 ∧ (tg .readWithData 2 0 [1, 2]).typeId ≠ 0x00FF :=
  ⟨rfl, by decide, by decide, by decide, by decide, by decide, by decide, by decide, by decide⟩

/-- LocateField, UnsignedField, SignedField: the widths at their edges. -/
theorem witness_fields_inside :
    (on booted).here? = some booted ∧ (1 : Nat) ≤ 1
    ∧ (tg .write 2 10 [1, 2, 3, 4]).data = [] ++ [1, 2, 3, 4] ++ [] ∧ ([1, 2, 3, 4] : List Byte).length ≤ 4
    ∧ (tg .write 2 10 [1, 2, 3, 4]).data = [1, 2, 3] ++ [4] ++ [] ∧ 1 ≤ ([4] : List Byte).length := by decide

/-- BitField: the lowest and the highest bit. -/
theorem witness_BitField : (on booted).here? = some booted ∧ (0 : Nat) ≤ 7 ∧ (7 : Nat) ≤ 7 := by decide

/-- FieldOutsideIsAbsent: one position too low, one byte too far, at widths 1, 3 and 4. -/
theorem witness_FieldOutsideIsAbsent :
    (on booted).here? = some booted ∧ 9 < (tg .write 2 10 [1, 2, 3, 4]).offset.toNat
    ∧ (tg .write 2 10 [1, 2, 3, 4]).offset.toNat + (tg .write 2 10 [1, 2, 3, 4]).data.length < 14 + 1
    ∧ (tg .write 2 10 [1, 2, 3, 4]).offset.toNat + (tg .write 2 10 [1, 2, 3, 4]).data.length < 12 + 3
    ∧ (tg .write 2 10 [1, 2, 3, 4]).offset.toNat + (tg .write 2 10 [1, 2, 3, 4]).data.length < 11 + 4 := by decide

/-- OperandRangeRefusals. -/
theorem witness_OperandRangeRefusals :
    (on booted).here? = some booted ∧ (4 : Nat) < 5 ∧ (7 : Nat) < 8 ∧ 2 ≠ ([1] : List Byte).length ∧ (2 : Nat) ≠ 0
    ∧ (10 : Nat) ≤ 10 := by decide

/-- CharacterReceived: a full ring, a full queue, the last free place after a break, and after a `Data`. -/
theorem witness_CharacterReceived :
    (on { booted with ring := List.replicate 64 0 }).here? = some { booted with ring := List.replicate 64 0 }
    ∧ (on booted).params.ringCap ≤ (List.replicate 64 (0 : Byte)).length
    ∧ (List.replicate 63 (0 : Byte)).length < (on booted).params.ringCap
    ∧ (on booted).params.evqCap ≤ (List.replicate 16 Event.brk).length
    ∧ (List.replicate 15 Event.brk).length < (on booted).params.evqCap
    ∧ (List.replicate 15 Event.brk).getLast? = some .brk
    ∧ List.replicate 14 Event.brk ++ [.data 3] = List.replicate 14 Event.brk ++ [.data 3] := by decide

/-- BreakReceived: one place left in the queue, and none. -/
theorem witness_BreakReceived :
    (on { booted with evq := List.replicate 15 .brk }).here? = some { booted with evq := List.replicate 15 .brk }
    ∧ (List.replicate 15 Event.brk).length < (on booted).params.evqCap
    ∧ (on booted).params.evqCap ≤ (List.replicate 16 Event.brk).length := by decide

/-- WireCharacterAndBreak, BitTimesCompleteCharactersAndBreaks: the shortest break; bit times that complete nothing, a
character, a break, the shortest and the longest line error; supplied outcomes of it. -/
theorem witness_bit_times :
    (on booted).unit? .first = some booted ∧ (10 : Nat) < 11
    ∧ ({ on booted with inbox := [{ dest := .first, code := .level true }] } : State).inbox
        = { dest := .first, code := .level true } :: []
    ∧ (Hidden.idle.sample true).2 = .nothing
    ∧ (({ shift := some (List.replicate 8 true), lowTime := 0 } : Hidden).sample true).2 = .char 0xFF
    ∧ (({ shift := none, lowTime := 11 } : Hidden).sample true).2 = .brk 11
    ∧ (({ shift := none, lowTime := 1 } : Hidden).sample true).2 = .error
    ∧ (({ shift := none, lowTime := 10 } : Hidden).sample true).2 = .error
    ∧ ({ booted with choices := [(0xFF : Byte).toNat + 1] } : Block).choices = ((0xFF : Byte).toNat + 1) :: [] := by decide

/-- EchoIsReceivedInOrder: a character, a break and nothing in flight. -/
theorem witness_EchoIsReceivedInOrder :
    (on { booted with echo := [.char 1, .brk] }).unit? .first = some { booted with echo := [.char 1, .brk] }
    ∧ ({ booted with echo := [.char 1, .brk] } : Block).echo = .char 1 :: [.brk]
    ∧ ({ booted with echo := [.brk] } : Block).echo = .brk :: [] ∧ booted.echo = [] := by decide

/-- WaitSelectsOneReaction, EveryReactionIsAdmitted, DataEventCounts, OverflowReactions, QuietTimeoutResynchronises,
FrameIsHandedToTheHost, LoopContextIsHeldBack: a free loop context, also during a transmission of another context; every
cause. -/
theorem witness_free_loop_context :
    (on booted).here? = some booted ∧ booted.listening = true ∧ booted.inCallback = false
    ∧ (booted.txCtx = .loop → booted.txPhase = .idle) ∧ booted.evq = [] ∧ booted.condRing = false
    ∧ booted.condQueue = false ∧ booted.txPhase = .idle ∧ booted.cb = some 1
    ∧ ({ booted with txPhase := .gap, txCtx := .ext } : Block).loopFree = true
    ∧ ({ booted with txPhase := .gap, txCtx := .ext } : Block).nothingPending = true
    ∧ ({ booted with condRing := true, condQueue := true, evq := [.data 1] } : Block).loopFree = true
    ∧ ({ booted with evq := [.brk], cb := none } : Block).loopFree = true := by decide

/-- BreakDeliversFrame, OverlongFrameIsDiscarded: the longest frame that fits and the shortest that does not. -/
theorem witness_break_events :
    (on { booted with rxCount := 34 }).here? = some { booted with rxCount := 34 }
    ∧ 34 ≤ (on booted).params.rxBufCap ∧ (on booted).params.rxBufCap < 35
    ∧ ({ booted with rxCount := 35 } : Block).loopFree = true ∧ booted.cb = some 1
    ∧ ({ booted with cb := none } : Block).cb = none := by decide

/-- CallbackReturns. -/
theorem witness_CallbackReturns :
    (on { booted with inCallback := true }).here? = some { booted with inCallback := true }
    ∧ ({ booted with inCallback := true, txCtx := .loop } : Block).txPhase = .idle
    ∧ ({ booted with inCallback := true, txCtx := .loop, txPhase := .brkHold } : Block).txPhase ≠ .idle
    ∧ booted.inCallback = false := by decide

/-- LoopContextIsHeldBack: not listening, in a callback, in a transmission of its own, without a cause. -/
theorem witness_LoopContextIsHeldBack :
    (on booted).here? = some booted ∧ (Block.powerOn (params false) .first).listening = false
    ∧ ({ booted with inCallback := true } : Block).inCallback = true
    ∧ ({ booted with txCtx := .loop, txPhase := .byte } : Block).txPhase ≠ .idle
    ∧ booted.loopFree = true ∧ booted.condRing = false ∧ booted.condQueue = false ∧ booted.evq = []
    ∧ ({ booted with evq := [.brk] } : Block).evq ≠ []
    ∧ ({ booted with txPhase := .byte } : Block).loopFree = true := by decide

/-- TransmissionStarts, TransmissionOutput: an empty buffer, one byte, the longest buffer, one more. -/
theorem witness_transmission :
    (on booted).here? = some booted ∧ booted.txPhase = .idle ∧ ([1] : List Byte) ≠ []
    ∧ (List.replicate 34 (0 : Byte)).length ≤ (on booted).params.txMaxLen
    ∧ (on booted).params.txMaxLen < (List.replicate 35 (0 : Byte)).length := by decide

/-- A unit that sends its last byte. -/
def sending (ph : TxPhase) (d : Option Delay) : Block :=
  { booted with txBuf := [(33, 0x8B)], txLen := 34, txIdx := 33, txPhase := ph, dly := d }

/-- ByteIsSent, GapEnds, BreakIsAssertedAndReleased: the last address of `TXBUF`, written and not; the delay expired. -/
theorem witness_transmit_steps :
    (on (sending .byte none)).here? = some (sending .byte none) ∧ (sending .byte none).txPhase = .byte
    ∧ (sending .byte none).txIdx < (on booted).params.txMaxLen
    ∧ Memory.read? (sending .byte none).txBuf (sending .byte none).txIdx = some 0x8B
    ∧ Memory.read? ({ sending .byte none with txBuf := [] } : Block).txBuf 33 = none
    ∧ (sending .gap none).txPhase = .gap ∧ (sending .gap none).dly = none
    ∧ (sending .brkAssert none).txPhase = .brkAssert ∧ (sending .brkHold none).txPhase = .brkHold := by decide

/-- BareBreakStarts, DelayRunsAndExpires, TransmitStepsOnlyInTheirPhase, FlushAndResync: idle and not, running and not. -/
theorem witness_phases :
    (on booted).here? = some booted ∧ booted.txPhase = .idle ∧ booted.dly = none
    ∧ (sending .gap (some .byteGap)).txPhase = .gap ∧ (sending .gap (some .byteGap)).dly ≠ none
    ∧ (sending .brkHold (some .breakHold)).txPhase = .brkHold ∧ (sending .brkHold (some .breakHold)).dly ≠ none
    ∧ (sending .gap none).txPhase = delayPhase .byteGap ∧ (sending .gap none).dly = none
    ∧ (sending .brkHold none).txPhase = delayPhase .breakHold ∧ (sending .brkHold none).dly = none
    ∧ (sending .byte none).txPhase ≠ delayPhase .byteGap
    ∧ (sending .gap none).txPhase ≠ .idle ∧ (sending .gap none).txPhase ≠ .byte
    ∧ (sending .byte none).txPhase ≠ .gap := by decide

/-- DelayRunsAndExpires, its last clause: a unit that keeps the invariant starts the delay, after a byte and for the break. -/
theorem witness_delay_is_started :
    ({ booted with txBuf := [(0, 7)], txLen := 1, txPhase := .byte } : Block).Inv (params false)
    ∧ ({ booted with txPhase := .brkAssert } : Block).Inv (params false)
    ∧ (∃ t, exec .txByte (on { booted with txBuf := [(0, 7)], txLen := 1, txPhase := .byte }) = .next t)
    ∧ ∃ t, exec .txBrkAssert (on { booted with txPhase := .brkAssert }) = .next t :=
  ⟨by decide, by decide, ⟨_, rfl⟩, _, rfl⟩

/-- PhaseTransitions, WhoWritesAccumulatorAndBuffer, UnitsAreIndependent: an operation completes while sending. -/
theorem witness_operation_while_sending :
    ∃ t m, (on (sending .gap none)).here? = some (sending .gap none) ∧ exec .txGap (on (sending .gap none)) = .next t
      ∧ t.here? = some m ∧ (sending .gap none).txPhase ≠ .idle := by
  refine ⟨_, _, rfl, rfl, rfl, by decide⟩

/-- UnitsAreIndependent: two machines that differ outside the addressed unit, a step, and a unit that does not exist,
with an operation, a bit time and the echo presented to it. -/
theorem witness_UnitsAreIndependent :
    (on booted).here? = some booted ∧ ({ on booted with turn := 7 } : State).here? = some booted
    ∧ ({ on booted with turn := 7 } : State).params = (on booted).params
    ∧ exec .crc8Clr (on booted) = .next ((on booted).put booted)
    ∧ ({ on booted with cur := .second } : State).here? = none ∧ (on booted).unit? .second = none
    ∧ ({ on booted with inbox := [{ dest := .second, code := .op [0x52] }] } : State).inbox
      = { dest := .second, code := .op [0x52] } :: []
    ∧ decode (.op [0x52]) = .ok .rxFlush
    ∧ ∃ t, step ((on booted).withFetchWord 8 0x01) = .next t := ⟨rfl, rfl, rfl, rfl, rfl, rfl, rfl, rfl, _, rfl⟩

/-- OneCallbackAtATime: the callback returns. -/
theorem witness_OneCallbackAtATime :
    ∃ t m, (on { booted with inCallback := true }).here? = some { booted with inCallback := true }
      ∧ exec .cbReturn (on { booted with inCallback := true }) = .next t ∧ t.here? = some m := ⟨_, _, rfl, rfl, rfl⟩

/-- ReceivedBytesAreAccountedFor: bytes counted and bytes queued. -/
theorem witness_ReceivedBytesAreAccountedFor :
    ({ booted with ring := [1, 2, 3], rxCount := 1, evq := [.data 2, .brk] } : Block).counted
    ∧ ∃ t m, exec (.lineChar 9) (on { booted with ring := [1, 2, 3], rxCount := 1, evq := [.data 2, .brk] }) = .next t
      ∧ t.here? = some m := ⟨by decide, _, _, rfl, rfl⟩

/-- ReceivedFrameIsDelivered: the longest frame the example capacities admit, and the empty one. -/
theorem witness_ReceivedFrameIsDelivered :
    (on booted).here? = some booted ∧ booted.listeningIdle ∧ booted.cb = some 1
    ∧ (List.replicate 15 (0 : Byte)).length ≤ (on booted).params.ringCap
    ∧ (List.replicate 15 (0 : Byte)).length ≤ (on booted).params.rxBufCap
    ∧ (List.replicate 15 (0 : Byte)).length < (on booted).params.evqCap
    ∧ ([] : List Byte).length < (on booted).params.evqCap := by decide

/-- FrameIsHandedToTheHost, poll frames: an idle listening block whose `ring` and `evq` hold two characters and three events. -/
theorem witness_FrameIsHandedToTheHost_polls :
    (on booted).here? = some booted ∧ booted.listeningIdle ∧ booted.cb = some 1
    ∧ 2 ≤ (on booted).params.ringCap ∧ 3 ≤ (on booted).params.evqCap := by decide

/-- StepKeepsInvariant, NothingIsFatal: the invariant holds of a unit that is sending, and a step completes. -/
theorem witness_invariant :
    (on { booted with txBuf := [(0, 7)], txLen := 1, txPhase := .gap, txd := .char 7, dly := some .byteGap }).Inv
    ∧ (onSecond booted).Inv ∧ (on booted).Inv ∧ (on booted).inbox = []
    ∧ ∃ t, step ((on booted).withFetchWord 8 0x01) = .next t :=
  ⟨by decide, by decide, by decide, rfl, _, rfl⟩

/-- OwnAgentsMove: both units exist; no move open, and two. -/
theorem witness_OwnAgentsMove :
    (onSecond booted).unit? .first = some booted ∧ (onSecond booted).unit? .second = some { booted with id := .second } ∧
    (on (Block.powerOn (params false) .first)).inbox = [] ∧ (on (Block.powerOn (params false) .first)).moves = []
    ∧ (on (sending .byte none)).moves ≠ [] ∧ (on (sending .byte none)).moves.length = 2 := by decide

/-- StepRunsTheDecodedOperation: an operation and a reserved index. -/
theorem witness_StepRunsTheDecodedOperation :
    ({ on booted with inbox := [{ dest := .first, code := .op [0x55] }] } : State).inbox
      = { dest := .first, code := .op [0x55] } :: []
    ∧ decode (.op [0x55]) = .ok .reset ∧ decode (.op [0xFF]) = .error (.reservedIndex 0xFF) := by decide

/-- RequestRoundTrip: well-formed operations at the edge of their ranges. -/
theorem witness_RequestRoundTrip :
    (Instr.crc8Chk [0] 1).wf = true ∧ (Instr.fxU telegramE 4294967295 4).wf = true ∧ (Instr.fxBit telegramE 0 7).wf = true
    ∧ (Instr.brk 11).wf = true ∧ (Instr.rxEvData 1).wf = true ∧ (Instr.decLeg [0, 0, 0xFF, 0, 0]).wf = true
    ∧ (Instr.encXWr (tg .write 0x100 0 [])).wf = true := by decide

end Sys2Proof.Tests
end

section
/-! PROOF. What the fetch hands to a step, the moves of the block's own agents, and the two statements of 00_scope. -/

namespace Sys2Proof.Machine

/-! ## What is fetched is performed -/

/-- What decodes is run, in the state in which it was presented; the two codes `fetchCode` treats apart do not decode. -/
theorem fetchCode_of_decode_ok {c : Code} {i : Instr} (h : decode c = .ok i) (s : State) :
    fetchCode c s = .run i s := by
  cases c with
  | level high => cases h
  | echo => cases h
  | _ => simp only [fetchCode, h]

/-- What does not decode, and is neither a bit time nor an echo, is refused by the decoder's name for it. -/
theorem fetchCode_of_decode_error {c : Code} {why : Reject} (h : decode c = .error why)
    (hlevel : ∀ high, c ≠ .level high) (hecho : c ≠ .echo) (s : State) :
    fetchCode c s = .refused (.undecodable why) := by
  cases c with
  | level high => exact absurd rfl (hlevel high)
  | echo => exact absurd rfl hecho
  | _ => simp only [fetchCode, h]

/-- A line error is never fetched as the block's waiting. -/
theorem fetchError_ne_idle (n : Block) (s : State) : fetchError n s ≠ .idle := by
  unfold fetchError
  split <;> exact nofun

/-- A bit time is never fetched as the block's waiting. -/
theorem fetchLevel_ne_idle (high : Bool) (s : State) : fetchLevel high s ≠ .idle := by
  unfold fetchLevel
  split
  · exact nofun
  · dsimp only
    split
    · exact nofun
    · exact nofun
    · exact nofun
    · exact fetchError_ne_idle _ s

/-- An echo is never fetched as the block's waiting. -/
theorem fetchEcho_ne_idle (s : State) : fetchEcho s ≠ .idle := by
  unfold fetchEcho
  split
  · exact nofun
  · split <;> exact nofun

/-- The block waits only where nothing is presented. -/
theorem fetchCode_ne_idle (c : Code) (s : State) : fetchCode c s ≠ .idle := by
  unfold fetchCode
  split
  · exact fetchLevel_ne_idle _ s
  · exact fetchEcho_ne_idle s
  · split <;> exact nofun

theorem fetch_of_inbox_cons {s : State} {e : Entry} {es : List Entry} (h : s.inbox = e :: es) :
    s.fetch = fetchEntry e { s with inbox := es } := by
  simp only [State.fetch, h]

theorem fetch_of_inbox_nil {s : State} (h : s.inbox = []) : s.fetch = fetchOwn s := by
  simp only [State.fetch, h]

theorem step_of_fetch_idle {s : State} (h : s.fetch = .idle) : step s = .next s := by
  simp only [step, h]

theorem step_of_fetch_run {s s' : State} {i : Instr} (h : s.fetch = .run i s') : step s = exec i s' := by
  simp only [step, h]

theorem step_of_fetch_refused {s : State} {r : Refusal} (h : s.fetch = .refused r) : step s = .refused r := by
  simp only [step, h]

/-- Unless the block waits, a step depends on the state only through what is fetched. -/
theorem step_congr_fetch {s t : State} (h : s.fetch = t.fetch) (hidle : t.fetch ≠ .idle) : step s = step t := by
  unfold step
  rw [h]
  split
  · exact absurd ‹_› hidle
  · rfl
  · rfl
  · rfl

/-! ## The moves of the block's own agents -/

theorem Block.mem_txMoves {n : Block} {c : Code} :
    c ∈ n.txMoves ↔ (c = .op [0x41] ∧ n.txPhase = .byte) ∨ (c = .op [0x42] ∧ n.txPhase = .gap ∧ n.dly = none)
      ∨ (c = .op [0x43] ∧ n.txPhase = .brkAssert) ∨ (c = .op [0x44] ∧ n.txPhase = .brkHold ∧ n.dly = none) := by
  cases hp : n.txPhase <;> cases hd : n.dly <;> simp [Block.txMoves, hp, hd, Sys2Proof.encode]

theorem Block.mem_delayMoves {n : Block} {c : Code} : c ∈ n.delayMoves ↔ c = .op [0x47] ∧ n.dly ≠ none := by
  by_cases h : n.dly = none <;> simp [Block.delayMoves, h, Sys2Proof.encode]

theorem Block.mem_loopMoves {n : Block} {c : Code} : c ∈ n.loopMoves ↔ c = .op [0x32] ∧ n.loopFree = true := by
  cases h : n.loopFree <;> simp [Block.loopMoves, h, Sys2Proof.encode]

theorem Block.mem_echoMoves {n : Block} {c : Code} : c ∈ n.echoMoves ↔ c = .echo ∧ n.echo ≠ [] := by
  cases h : n.echo <;> simp [Block.echoMoves, h]

/-- A unit's moves are those of its four agents, addressed to it. -/
theorem Block.mem_moves {n : Block} {id : UnitId} {e : Entry} :
    e ∈ n.moves id ↔ id = e.dest
      ∧ (e.code ∈ n.txMoves ∨ e.code ∈ n.delayMoves ∨ e.code ∈ n.loopMoves ∨ e.code ∈ n.echoMoves) := by
  obtain ⟨dest, code⟩ := e
  simp only [Block.moves, List.mem_map, List.mem_append, Entry.mk.injEq, or_assoc]
  constructor
  · rintro ⟨c, hc, hid, rfl⟩
    exact ⟨hid, hc⟩
  · rintro ⟨hid, hc⟩
    exact ⟨code, hc, hid, rfl⟩

/-- The machine's moves are those of the unit each is addressed to. -/
theorem State.mem_moves {s : State} {e : Entry} :
    e ∈ s.moves ↔ ∃ n, s.unit? e.dest = some n ∧ e ∈ n.moves e.dest := by
  obtain ⟨dest, code⟩ := e
  cases dest <;> cases hs : s.second <;> simp [State.moves, State.unit?, hs, Block.mem_moves]

/-- Every move is one of seven codes, each open exactly under the condition of its agent. -/
theorem State.mem_moves_iff {s : State} {id : UnitId} {n : Block} (h : s.unit? id = some n) (c : Code) :
    ({ dest := id, code := c } : Entry) ∈ s.moves ↔
      ((c = .op [0x41] ∧ n.txPhase = .byte) ∨ (c = .op [0x42] ∧ n.txPhase = .gap ∧ n.dly = none)
        ∨ (c = .op [0x43] ∧ n.txPhase = .brkAssert) ∨ (c = .op [0x44] ∧ n.txPhase = .brkHold ∧ n.dly = none))
      ∨ (c = .op [0x47] ∧ n.dly ≠ none)
      ∨ (c = .op [0x32] ∧ n.listening = true ∧ n.inCallback = false ∧ (n.txCtx = .loop → n.txPhase = .idle))
      ∨ (c = .echo ∧ n.echo ≠ []) := by
  simp only [State.mem_moves, h, Option.some.injEq, exists_eq_left', Block.mem_moves, true_and, Block.mem_txMoves,
    Block.mem_delayMoves, Block.mem_loopMoves, Block.mem_echoMoves, Block.loopFree_iff]

/-- A move is addressed to a unit that exists, and its code is one of seven. -/
theorem State.unit_and_code_of_mem_moves {s : State} {e : Entry} (he : e ∈ s.moves) :
    (∃ n, s.unit? e.dest = some n)
      ∧ e.code ∈ [Code.op [0x41], .op [0x42], .op [0x43], .op [0x44], .op [0x47], .op [0x32], .echo] := by
  obtain ⟨n, hn, -⟩ := State.mem_moves.mp he
  refine ⟨⟨n, hn⟩, ?_⟩
  rcases (State.mem_moves_iff hn e.code).mp he with (h | h | h | h) | h | h | h <;> simp [h.1]

/-! ## Which move is taken -/

/-- A turn picked among `k` is below `k`, and picking it changes only what supplies turns. -/
theorem State.pickTurn_spec (s : State) {k : Nat} (h : 0 < k) :
    ∃ i < k, ∃ ts j, s.pickTurn k = (i, { s with turns := ts, turn := j }) := by
  unfold State.pickTurn
  split
  · exact ⟨0, h, s.turns, s.turn, rfl⟩
  · split
    · rename_i c cs _
      exact ⟨c % k, Nat.mod_lt _ h, cs, s.turn, rfl⟩
    · exact ⟨_, Nat.mod_lt _ h, s.turns, s.turn + 1, rfl⟩

/-- Every turn among `k` can be supplied so that it is the one picked, and nothing supplied is left over. -/
theorem State.exists_turns_pickTurn (s : State) {i k : Nat} (h : i < k) :
    ∃ ts, ({ s with turns := ts } : State).pickTurn k = (i, { s with turns := [] }) := by
  by_cases hk : k ≤ 1
  · obtain rfl : i = 0 := by omega
    exact ⟨[], by simp [State.pickTurn, hk]⟩
  · exact ⟨[i], by simp [State.pickTurn, hk, Nat.mod_eq_of_lt h]⟩

/-- With nothing issued and no move open the block waits. -/
theorem step_of_moves_nil {s : State} (hin : s.inbox = []) (hm : s.moves = []) : step s = .next s :=
  step_of_fetch_idle (by simp [fetch_of_inbox_nil hin, fetchOwn, hm])

/-- With nothing issued, a step is the step in which the move that is picked has been issued. -/
theorem step_of_picked {s t : State} {e : Entry} {i : Nat} (hin : s.inbox = [])
    (hpick : s.pickTurn s.moves.length = (i, t)) (he : s.moves[i]? = some e) (ht : t.inbox = []) :
    step s = step { t with inbox := [e] } := by
  have hissued : State.fetch { t with inbox := [e] } = fetchEntry e t := by
    rw [fetch_of_inbox_cons rfl, ← ht]
  have hown : s.fetch = fetchEntry e t := by
    simp only [fetch_of_inbox_nil hin, fetchOwn, hpick, he]
  exact step_congr_fetch (hown.trans hissued.symm) (hissued ▸ fetchCode_ne_idle e.code _)

/-- With nothing issued and a move open, a step takes one of the open moves. -/
theorem step_takes_a_move {s : State} (hin : s.inbox = []) (hm : s.moves ≠ []) :
    ∃ e ∈ s.moves, ∃ (ts : List Nat) (k : Nat), step s = step { s with inbox := [e], turns := ts, turn := k } := by
  obtain ⟨i, hi, ts, k, hpick⟩ := s.pickTurn_spec (List.length_pos_of_ne_nil hm)
  exact ⟨s.moves[i], List.getElem_mem hi, ts, k, step_of_picked hin hpick (List.getElem?_eq_getElem hi) hin⟩

/-- With nothing issued, every open move is taken for some supply of turns. -/
theorem step_can_take_move {s : State} (hin : s.inbox = []) {e : Entry} (he : e ∈ s.moves) :
    ∃ ts : List Nat, step { s with turns := ts } = step { s with inbox := [e], turns := [] } := by
  obtain ⟨i, hi, rfl⟩ := List.mem_iff_getElem.mp he
  obtain ⟨ts, hpick⟩ := s.exists_turns_pickTurn hi
  exact ⟨ts, step_of_picked (s := { s with turns := ts }) hin hpick (List.getElem?_eq_getElem hi) hin⟩

/-! ## The statements -/

/-- Settles O57: the moves are read off agent by agent, and a step of the block's own takes the move whose turn is
picked, which any supplied turn can be. -/
theorem ownAgentsMove : Obligations.OwnAgentsMove := by
  unfold Obligations.OwnAgentsMove
  refine ⟨?_, fun s e => State.unit_and_code_of_mem_moves, rfl, rfl, rfl, rfl, rfl, rfl, fun s hin =>
    ⟨step_of_moves_nil hin, step_takes_a_move hin, fun e => step_can_take_move hin⟩⟩
  intro s id n hn canMove
  simp [canMove, State.mem_moves_iff hn]

/-- Settles O58: the head of the inbox is what is fetched, and what decodes is run. -/
theorem stepRunsTheDecodedOperation : Obligations.StepRunsTheDecodedOperation := by
  unfold Obligations.StepRunsTheDecodedOperation
  intro s id c es hin
  refine ⟨fun i hi => step_of_fetch_run ?_, fun why hwhy hlevel hecho => step_of_fetch_refused ?_⟩
  · rw [fetch_of_inbox_cons hin, fetchEntry, fetchCode_of_decode_ok hi]
  · rw [fetch_of_inbox_cons hin, fetchEntry, fetchCode_of_decode_error hwhy hlevel hecho]

end Sys2Proof.Machine
end

section
/-! PROOF. What one operation does to the two sides of a unit, the transmit side by one inversion and the receive side
by one lemma per reaction; the invariant of every step, the transmit phases, and who writes what. -/

namespace Sys2Proof

/-- The operations of the CRC unit, the codec and the field extractor that change no element of the tuple. -/
def Instr.answers : Instr → Bool
  | .crc8Rd | .crc8Blk _ | .crc8Chk _ _ | .decode _ _ | .encode _ | .classify _ => true
  | .fxLocate _ _ _ | .fxU _ _ _ | .fxS _ _ _ | .fxS24 _ _ | .fxBit _ _ _ => true
  | .decXrd _ | .decXwr _ | .decLeg _ | .decTooshort _ => true
  | .encLegRd _ | .encLegWr _ | .encXRd _ | .encXWr _ => true
  | _ => false

/-- The operations with which a bare break can begin (44_tx_delay R230, 45_system_ops R253, 43_rx_framer R207). -/
abbrev Instr.beginsBreak (i : Instr) : Prop :=
  (∃ ctx, i = .txSendbreak ctx) ∨ (∃ ctx, i = .resync ctx) ∨ i = .rxEvTimeout ∨ i = .rxWait

end Sys2Proof

namespace Sys2Proof.Machine

/-! ## When a guarded operation completes -/

/-- An operation behind a guard completes only when the guard lets it pass. -/
theorem Block.guard_cases {c : Prop} [Decidable c] {r : Refusal} {o : Host.Outcome Block Fault Refusal} {m : Block}
    (h : (if c then .refused r else o) = .next m) : ¬c ∧ o = .next m := by
  split at h
  · cases h
  · exact ⟨‹_›, h⟩

theorem Block.not_txBusy_iff {n : Block} : ¬n.txBusy = true ↔ n.txPhase = .idle := by
  simp [Block.txBusy]

/-- What an operation on the addressed unit leaves there. -/
theorem perform_of_exec {i : Instr} {s t : State} {n m : Block} (hn : s.here? = some n) (h : exec i s = .next t)
    (hm : t.here? = some m) : Block.perform s.params i n = .next m := by
  obtain ⟨n₁, m₁, hn₁, hp, rfl⟩ := exec_cases h
  obtain rfl : n₁ = n := Option.some.inj (hn₁ ▸ hn)
  obtain rfl : m₁ = m := Option.some.inj (State.here?_put s m₁ ▸ hm)
  exact hp

/-- The reaction to the quiet timeout completes only with the transmitter idle (45_system_ops R253). -/
theorem Block.handleTimeout_next {n m : Block} (h : n.handleTimeout = .next m) :
    n.txPhase = .idle ∧ m = (n.report .quietTimeout).resyncNow .loop := by
  obtain ⟨hidle, h'⟩ | ⟨-, h'⟩ := n.handleTimeout_cases
  · exact ⟨hidle, Host.Outcome.next.inj (h.symm.trans h')⟩
  · cases h.symm.trans h'

/-- Everything RX.WAIT can do when it completes (43_rx_framer R199): go on waiting, the quiet timeout with the
transmitter idle, or a selection. -/
theorem Block.rxWait_cases {p : Params} {n m : Block} (h : n.rxWait p = .next m) :
    n.loopFree = true ∧ ∃ cs d, let n₀ : Block := { n with quiet := .waiting, choices := cs, drawn := d }
      m = n₀ ∨ (n.txPhase = .idle ∧ m = (n₀.report .quietTimeout).resyncNow .loop) ∨ ∃ l, m = n₀.loopStep p l := by
  obtain ⟨hfree, h⟩ := Block.asLoop_cases h
  refine ⟨hfree, ?_⟩
  split at h
  · obtain ⟨cs, d, hw | hw⟩ := Block.waitQuiet_cases { n with quiet := .waiting }
    · exact ⟨cs, d, .inl (Host.Outcome.next.inj (h.symm.trans hw))⟩
    · exact ⟨cs, d, .inr (.inl (Block.handleTimeout_next (hw.symm.trans h)))⟩
  · obtain ⟨cs, d, l, hw, -⟩ := Block.waitPending_cases p { n with quiet := .waiting }
    exact ⟨cs, d, .inr (.inr ⟨l, (Host.Outcome.next.inj h).symm.trans hw⟩)⟩

/-! ## Operations that only answer -/

theorem Block.answer_eq_emit (n : Block) (r : Result) : ∃ o, n.answer r = n.emit o := by
  cases r <;> exact ⟨_, rfl⟩

theorem Block.field_eq_emit (n : Block) (t : Telegram) (pos w : Nat) (value : Nat → Result) :
    ∃ o, n.field t pos w value = n.emit o := by
  unfold Block.field
  split <;> exact ⟨_, rfl⟩

/-- An operation that only answers emits its answer and does nothing else. -/
theorem Block.perform_answers {p : Params} {i : Instr} {n m : Block} (h : Block.perform p i n = .next m)
    (hi : i.answers = true) : ∃ o, m = n.emit o := by
  cases i with
  | crc8Rd | crc8Blk buf | encode t | classify len =>
    cases h
    exact ⟨_, rfl⟩
  | crc8Chk raw len =>
    obtain ⟨-, h⟩ := Block.guard_cases h
    obtain ⟨-, h⟩ := Block.guard_cases h
    cases h
    exact ⟨_, rfl⟩
  | decode raw len | decXrd raw | decXwr raw | decLeg raw =>
    obtain ⟨-, h⟩ := Block.guard_cases h
    cases h
    exact n.answer_eq_emit _
  | fxLocate t pos w | fxU t pos w | fxS t pos w | fxBit t pos bit =>
    obtain ⟨-, h⟩ := Block.guard_cases h
    cases h
    exact n.field_eq_emit ..
  | fxS24 t pos =>
    cases h
    exact n.field_eq_emit ..
  | decTooshort raw | encLegRd t | encLegWr t | encXRd t | encXWr t =>
    obtain ⟨-, h⟩ := Block.guard_cases h
    cases h
    exact ⟨_, rfl⟩
  | _ => cases hi

/-! ## The transmit side -/

/-- The accumulator, `TXBUF`, the sequencer, the delay generator and the drive of the line: what no receive operation
writes, but for the break with which the loop context resynchronises. -/
structure TxSide where
  crcAcc : Byte
  txBuf : Memory
  txLen : Nat
  txIdx : Nat
  txPhase : TxPhase
  txCtx : Ctx
  dly : Option Delay
  txd : Drive

/-- The transmit side of a unit. -/
def Block.txSide (n : Block) : TxSide :=
  { crcAcc := n.crcAcc, txBuf := n.txBuf, txLen := n.txLen, txIdx := n.txIdx, txPhase := n.txPhase, txCtx := n.txCtx
    dly := n.dly, txd := n.txd }

@[simp] theorem Block.draw_txSide (n : Block) : (n.draw).2.txSide = n.txSide := by
  obtain ⟨cs, d, h⟩ := n.draw_snd
  rw [h]
  rfl

@[simp] theorem Block.post_txSide (p : Params) (n : Block) (e : Event) : (n.post p e).txSide = n.txSide := by
  obtain ⟨-, h⟩ | ⟨-, h⟩ := n.post_cases p e <;> rw [h] <;> rfl

@[simp] theorem Block.postChar_txSide (p : Params) (n : Block) : (n.postChar p).txSide = n.txSide := by
  obtain ⟨-, h⟩ | ⟨-, cs, d, h⟩ | ⟨-, pre, k, cs, d, -, h⟩ := n.postChar_cases p <;> rw [h] <;> rfl

@[simp] theorem Block.hearChar_txSide (p : Params) (n : Block) (b : Byte) : (n.hearChar p b).txSide = n.txSide := by
  unfold Block.hearChar
  split
  · exact Block.postChar_txSide ..
  · rfl

@[simp] theorem Block.hearChars_txSide (p : Params) (bs : List Byte) (n : Block) :
    (bs.foldl (Block.hearChar p) n).txSide = n.txSide := by
  induction bs generalizing n with
  | nil => rfl
  | cons b bs ih => exact (ih _).trans (n.hearChar_txSide p b)

@[simp] theorem Block.hearBreak_txSide (p : Params) (n : Block) : (n.hearBreak p).txSide = n.txSide :=
  n.post_txSide p .brk

@[simp] theorem Block.handOver_txSide (n : Block) (frame : List Byte) : (n.handOver frame).txSide = n.txSide := by
  unfold Block.handOver
  split <;> rfl

@[simp] theorem Block.takeBreak_txSide (p : Params) (n : Block) : (n.takeBreak p).txSide = n.txSide := by
  unfold Block.takeBreak
  split
  · rfl
  · exact Block.handOver_txSide ..

@[simp] theorem Block.loopStep_txSide (p : Params) (n : Block) (l : LoopStep) : (n.loopStep p l).txSide = n.txSide := by
  cases l with
  | ringovf | qfull => rfl
  | event =>
    simp only [Block.loopStep, Block.takeEvent]
    split
    · rfl
    · rfl
    · exact Block.takeBreak_txSide ..

/-- What an operation can do to the transmit side: nothing, or one step of the CRC unit, the sequencer (10_state R29),
the delay generator or reset. -/
inductive Block.TxStep (p : Params) (n : Block) : Instr → Block → Prop
  | keep {i : Instr} : TxStep p n i n
  | clear : TxStep p n .crc8Clr { n with crcAcc := p.crc8Init }
  | update (b : Byte) : TxStep p n (.crc8Upd b) { n with crcAcc := crc8Step p n.crcAcc b }
  | load (bytes : List Byte) (ctx : Ctx) : n.txPhase = .idle → bytes.length ≠ 0 → bytes.length ≤ p.txMaxLen →
      TxStep p n (.txStart bytes ctx) (n.loadTx bytes ctx)
  | send (b : Byte) : n.txPhase = .byte → n.txIdx < p.txMaxLen → (∀ c, Memory.read? n.txBuf n.txIdx = some c → b = c) →
      TxStep p n .txByte { n with dly := some .byteGap, txd := .char b, txPhase := .gap }
  | endGap : n.txPhase = .gap → n.dly = none → TxStep p n .txGap { n with
      txd := .released, txIdx := n.txIdx + 1, txPhase := if n.txIdx + 1 < n.txLen then .byte else .brkAssert }
  | assertBreak : n.txPhase = .brkAssert →
      TxStep p n .txBrkAssert { n with dly := some .breakHold, txd := .space, txPhase := .brkHold }
  | releaseBreak : n.txPhase = .brkHold → n.dly = none →
      TxStep p n .txBrkRelease { n with txd := .released, txPhase := .idle }
  | beginBreak {i : Instr} (ctx : Ctx) : i.beginsBreak → n.txPhase = .idle → TxStep p n i (n.sendBreak ctx)
  | startDelay (d : Delay) : n.txPhase = delayPhase d → n.dly = none → TxStep p n (.dlyStart d) (n.startDelay d)
  | expire : n.dly ≠ none → TxStep p n .dlyExpire { n with dly := none }
  | reset : TxStep p n .reset (n.reset p)

/-- The transmit side after an operation is that of one transmit step of its instruction. -/
abbrev Block.TxReaches (p : Params) (n : Block) (i : Instr) (m : Block) : Prop :=
  ∃ m', n.TxStep p i m' ∧ m.txSide = m'.txSide

theorem Block.TxReaches.of_txSide_eq {p : Params} {n m : Block} (i : Instr) (h : m.txSide = n.txSide) :
    n.TxReaches p i m := ⟨n, .keep, h⟩

theorem Block.rxWait_tx {p : Params} {n m : Block} (h : n.rxWait p = .next m) : n.TxReaches p .rxWait m := by
  obtain ⟨-, cs, d, rfl | ⟨hidle, rfl⟩ | ⟨l, rfl⟩⟩ := Block.rxWait_cases h
  · exact .of_txSide_eq _ rfl
  · exact ⟨_, .beginBreak .loop (by simp [Instr.beginsBreak]) hidle, rfl⟩
  · exact .of_txSide_eq _ (Block.loopStep_txSide ..)

theorem Block.txStart_tx {p : Params} {n m : Block} {bytes : List Byte} {ctx : Ctx}
    (h : n.txStart p bytes ctx = .next m) : n.TxReaches p (.txStart bytes ctx) m := by
  obtain ⟨hidle, h⟩ := Block.guard_cases h
  cases h
  split
  · exact .of_txSide_eq _ rfl
  · rename_i hlen
    rw [not_or, Nat.not_lt] at hlen
    exact ⟨_, .load bytes ctx (Block.not_txBusy_iff.mp hidle) hlen.1 hlen.2, rfl⟩

theorem Block.txByte_tx {p : Params} {n m : Block} (h : n.txByte p = .next m) : n.TxReaches p .txByte m := by
  obtain ⟨hbyte, h⟩ := Block.guard_cases h
  rw [Decidable.not_not] at hbyte
  split at h
  · cases h
  · rename_i hidx
    rw [Nat.not_le] at hidx
    split at h
    · rename_i b hread
      cases h
      exact ⟨_, .send b hbyte hidx (fun c hc => Option.some.inj (hread.symm.trans hc)), rfl⟩
    · rename_i hread
      obtain ⟨cs, d, hd⟩ := n.draw_snd
      cases h
      rw [hd]
      exact ⟨_, .send (.ofNat 8 (n.draw).1) hbyte hidx (by simp [hread]), rfl⟩

/-- Everything an operation can do to the transmit side. -/
theorem Block.perform_tx {p : Params} {i : Instr} {n m : Block} (h : Block.perform p i n = .next m) :
    n.TxReaches p i m := by
  by_cases hi : i.answers = true
  · obtain ⟨o, rfl⟩ := Block.perform_answers h hi
    exact .of_txSide_eq i rfl
  cases i with
  | crc8Clr => cases h; exact ⟨_, .clear, rfl⟩
  | crc8Upd b => cases h; exact ⟨_, .update b, rfl⟩
  | lineChar b | ch b =>
    cases h
    exact .of_txSide_eq _ (Block.hearChar_txSide ..)
  | lineBreak =>
    cases h
    exact .of_txSide_eq _ (Block.hearBreak_txSide ..)
  | brk k =>
    obtain ⟨-, h⟩ := Block.guard_cases h
    cases h
    exact .of_txSide_eq _ (Block.hearBreak_txSide ..)
  | poll1 b | poll2 b0 b1 =>
    cases h
    exact .of_txSide_eq _ ((Block.hearBreak_txSide ..).trans (Block.hearChars_txSide ..))
  | rxWait => exact Block.rxWait_tx h
  | rxEvData k =>
    obtain ⟨-, h⟩ := Block.asLoop_cases h
    cases h
    exact .of_txSide_eq _ rfl
  | rxEvBreak =>
    obtain ⟨-, h⟩ := Block.asLoop_cases h
    cases h
    exact .of_txSide_eq _ (Block.takeBreak_txSide ..)
  | rxDeliver frame =>
    obtain ⟨-, h⟩ := Block.asLoop_cases h
    cases h
    exact .of_txSide_eq _ (Block.handOver_txSide ..)
  | rxEvRingovf | rxEvQfull =>
    obtain ⟨-, h⟩ := Block.asLoop_cases h
    obtain ⟨-, h⟩ := Block.guard_cases h
    cases h
    exact .of_txSide_eq _ rfl
  | rxEvTimeout =>
    obtain ⟨-, h⟩ := Block.asLoop_cases h
    obtain ⟨-, h⟩ := Block.guard_cases h
    obtain ⟨hidle, rfl⟩ := Block.handleTimeout_next h
    exact ⟨_, .beginBreak .loop (by simp [Instr.beginsBreak]) hidle, rfl⟩
  | cbReturn =>
    obtain ⟨-, h⟩ := Block.guard_cases h
    obtain ⟨-, h⟩ := Block.guard_cases h
    cases h
    exact .of_txSide_eq _ rfl
  | txStart bytes ctx => exact Block.txStart_tx h
  | txByte => exact Block.txByte_tx h
  | txGap =>
    obtain ⟨hgap, h⟩ := Block.guard_cases h
    obtain ⟨hdly, h⟩ := Block.guard_cases h
    cases h
    exact ⟨_, .endGap (Decidable.not_not.mp hgap) (Decidable.not_not.mp hdly), rfl⟩
  | txBrkAssert =>
    obtain ⟨hassert, h⟩ := Block.guard_cases h
    cases h
    exact ⟨_, .assertBreak (Decidable.not_not.mp hassert), rfl⟩
  | txBrkRelease =>
    obtain ⟨hhold, h⟩ := Block.guard_cases h
    obtain ⟨hdly, h⟩ := Block.guard_cases h
    cases h
    refine ⟨_, .releaseBreak (Decidable.not_not.mp hhold) (Decidable.not_not.mp hdly), ?_⟩
    unfold Block.retSent
    split <;> rfl
  | txSendbreak ctx | resync ctx =>
    obtain ⟨hidle, h⟩ := Block.guard_cases h
    cases h
    exact ⟨_, .beginBreak ctx (by simp [Instr.beginsBreak]) (Block.not_txBusy_iff.mp hidle), rfl⟩
  | dlyStart d =>
    obtain ⟨hphase, hdly, rfl⟩ := Block.dlyStart_cases h
    exact ⟨_, .startDelay d hphase hdly, rfl⟩
  | dlyExpire =>
    obtain ⟨hdly, h⟩ := Block.guard_cases h
    cases h
    exact ⟨_, .expire hdly, rfl⟩
  | cfgLine | cbRegister f | rxFlush | listenStart =>
    cases h
    exact .of_txSide_eq _ rfl
  | reset => cases h; exact ⟨_, .reset, rfl⟩
  | _ => exact absurd rfl hi

/-! ## The invariant of a unit, side by side -/

/-- What unit `u` keeps of its name and its receive side. -/
abbrev Block.RxInv (p : Params) (u : UnitId) (n : Block) : Prop :=
  n.id = u ∧ n.rxOk p ∧ n.loopOk ∧ n.hidden.ok = true

/-- What a unit keeps of its transmit side. -/
abbrev Block.TxInv (p : Params) (n : Block) : Prop := n.txOk p ∧ n.driveOk = true ∧ n.delayOk = true

theorem Block.inv_iff {p : Params} {u : UnitId} {n : Block} :
    n.Inv p ∧ n.id = u ↔ n.RxInv p u ∧ n.TxInv p := by
  constructor
  · rintro ⟨⟨hrx, htx, hdrive, hdelay, hloop, hhidden⟩, hid⟩
    exact ⟨⟨hid, hrx, hloop, hhidden⟩, htx, hdrive, hdelay⟩
  · rintro ⟨⟨hid, hrx, hloop, hhidden⟩, htx, hdrive, hdelay⟩
    exact ⟨⟨hrx, htx, hdrive, hdelay, hloop, hhidden⟩, hid⟩

theorem Block.powerOn_rxInv (p : Params) (u : UnitId) : (Block.powerOn p u).RxInv p u :=
  ⟨rfl, ⟨Nat.zero_le _, Nat.zero_le _, rfl, rfl, rfl⟩, nofun, rfl⟩

theorem Block.powerOn_txInv (p : Params) (u : UnitId) : (Block.powerOn p u).TxInv p :=
  ⟨⟨rfl, rfl, Nat.zero_le _, Nat.le_refl _, by simp [Block.powerOn], rfl⟩, rfl, rfl⟩

/-! ## The transmit side is kept -/

/-- What a unit keeps of its transmit side depends on nothing else of it. -/
theorem Block.TxInv.of_txSide_eq {p : Params} {n m : Block} (hn : n.TxInv p) (h : m.txSide = n.txSide) :
    m.TxInv p := by
  simp only [Block.txSide, TxSide.mk.injEq] at h
  obtain ⟨-, hbuf, hlen, hidx, hphase, -, hdly, htxd⟩ := h
  unfold Block.TxInv Block.txOk Block.driveOk Block.delayOk
  rw [hbuf, hlen, hidx, hphase, hdly, htxd]
  exact hn

/-- Every address below the length reads a byte once that many bytes have been written. -/
theorem Memory.all_isSome_read?_writeBytes (m : Memory) (bs : List Byte) :
    ((List.range bs.length).all fun i => (read? (writeBytes m 0 bs) i).isSome) = true := by
  simp only [List.all_eq_true, List.mem_range]
  intro i hi
  have hbyte := read?_writeBytes bs m 0 i hi
  rw [Nat.zero_add] at hbyte
  simp [hbyte, hi]

/-- The delay generator and the line are at rest between transmissions. -/
theorem Block.TxInv.rest_of_idle {p : Params} {n : Block} (hn : n.TxInv p) (hidle : n.txPhase = .idle) :
    n.dly = none ∧ n.txd = .released := by
  obtain ⟨-, hdrive, hdelay⟩ := hn
  constructor
  · cases hd : n.dly with
    | none => rfl
    | some d => cases d <;> simp [Block.delayOk, hd, hidle, delayPhase] at hdelay
  · simpa [Block.driveOk, hidle] using hdrive

theorem Block.TxInv.loadTx {p : Params} {n : Block} {bytes : List Byte} {ctx : Ctx} (hn : n.TxInv p)
    (hidle : n.txPhase = .idle) (hne : bytes.length ≠ 0) (hmax : bytes.length ≤ p.txMaxLen) :
    (n.loadTx bytes ctx).TxInv p := by
  obtain ⟨hdly, htxd⟩ := hn.rest_of_idle hidle
  obtain ⟨⟨hwf, hbelow, -⟩, -⟩ := hn
  refine ⟨⟨Memory.wf_writeBytes _ _ _ hwf, Memory.below_writeBytes _ _ _ _ (by omega) hbelow, hmax, Nat.zero_le _,
    fun _ => Nat.pos_of_ne_zero hne, Memory.all_isSome_read?_writeBytes _ _⟩, ?_, ?_⟩
  · simp [Block.driveOk, htxd]
  · simp [Block.delayOk, hdly]

/-- Every transmit step keeps the transmit side: a byte is sent only from its phase, where the byte read stands in
`TXBUF`, and a transmission or a break begins only at rest. -/
theorem Block.TxInv.txStep {p : Params} {i : Instr} {n m : Block} (hn : n.TxInv p) (h : n.TxStep p i m) :
    m.TxInv p := by
  have ⟨⟨hwf, hbelow, hlen, hidx, hsending, hread⟩, hdrive, _⟩ := hn
  cases h with
  | keep | clear | update => exact hn
  | load bytes ctx hidle hne hmax => exact hn.loadTx hidle hne hmax
  | send b hbyte _ hb =>
    have hlt := hsending (.inl hbyte)
    obtain ⟨c, hc⟩ := Option.isSome_iff_exists.mp (List.all_eq_true.mp hread _ (List.mem_range.mpr hlt))
    obtain rfl := hb c hc
    refine ⟨⟨hwf, hbelow, hlen, hidx, fun _ => hlt, hread⟩, ?_, ?_⟩
    · simp [Block.driveOk, hc]
    · rfl
  | endGap hgap hdly =>
    have hlt := hsending (.inr hgap)
    refine ⟨⟨hwf, hbelow, hlen, hlt, ?_, hread⟩, ?_, ?_⟩
    · by_cases hmore : n.txIdx + 1 < n.txLen <;> simp [hmore]
    · by_cases hmore : n.txIdx + 1 < n.txLen <;> simp [hmore, Block.driveOk]
    · simp [Block.delayOk, hdly]
  | assertBreak hassert =>
    exact ⟨⟨hwf, hbelow, hlen, hidx, by simp, hread⟩, rfl, rfl⟩
  | releaseBreak hhold hdly =>
    exact ⟨⟨hwf, hbelow, hlen, hidx, by simp, hread⟩, rfl, by simp [Block.delayOk, hdly]⟩
  | beginBreak ctx hi hidle =>
    obtain ⟨hdly, htxd⟩ := hn.rest_of_idle hidle
    refine ⟨⟨hwf, hbelow, Nat.zero_le _, Nat.le_refl _, by simp, rfl⟩, ?_, ?_⟩
    · simp [Block.driveOk, htxd]
    · simp [Block.delayOk, hdly]
  | startDelay d hphase =>
    exact ⟨⟨hwf, hbelow, hlen, hidx, hsending, hread⟩, hdrive, by simp [Block.delayOk, hphase]⟩
  | expire => exact ⟨⟨hwf, hbelow, hlen, hidx, hsending, hread⟩, hdrive, rfl⟩
  | reset => exact Block.powerOn_txInv p n.id

/-! ## The receive side is kept -/

section Receive

variable {p : Params} {u : UnitId} {n m : Block}

theorem Block.RxInv.draw (hn : n.RxInv p u) : (n.draw).2.RxInv p u := by
  obtain ⟨cs, d, h⟩ := n.draw_snd
  rw [h]
  exact hn

theorem Block.RxInv.sendChar (hn : n.RxInv p u) (b : Byte) : (n.sendChar p b).RxInv p u := hn

theorem Block.RxInv.post {e : Event} (hn : n.RxInv p u) (he : e.ok = true) : (n.post p e).RxInv p u := by
  obtain ⟨hid, ⟨hring, hevq, hok, hbuf⟩, hrest⟩ := hn
  obtain ⟨hroom, h⟩ | ⟨-, h⟩ := n.post_cases p e
  · rw [h]
    refine ⟨hid, ⟨hring, ?_, ?_, hbuf⟩, hrest⟩
    · simpa using hroom
    · simp [hok, he]
  · rw [h]
    exact ⟨hid, ⟨hring, hevq, hok, hbuf⟩, hrest⟩

theorem Block.RxInv.postChar (hn : n.RxInv p u) : (n.postChar p).RxInv p u := by
  obtain ⟨hid, ⟨hring, hevq, hok, hbuf⟩, hrest⟩ := hn
  obtain ⟨-, h⟩ | ⟨hroom, cs, d, h⟩ | ⟨-, pre, k, cs, d, hpre, h⟩ := n.postChar_cases p
  · rw [h]
    exact ⟨hid, ⟨hring, hevq, hok, hbuf⟩, hrest⟩
  · rw [h]
    refine ⟨hid, ⟨hring, ?_, ?_, hbuf⟩, hrest⟩
    · simpa using hroom
    · simp [hok, Event.ok]
  · rw [h]
    refine ⟨hid, ⟨hring, ?_, ?_, hbuf⟩, hrest⟩
    · simpa [hpre] using hevq
    · rw [hpre, List.all_append, Bool.and_eq_true] at hok
      simp [hok.1, Event.ok]

theorem Block.RxInv.hearChar (hn : n.RxInv p u) (b : Byte) : (n.hearChar p b).RxInv p u := by
  unfold Block.hearChar
  obtain ⟨hid, ⟨hring, hrx⟩, hrest⟩ := hn
  split
  · rename_i hroom
    exact Block.RxInv.postChar ⟨hid, ⟨by simpa using hroom, hrx⟩, hrest⟩
  · exact ⟨hid, ⟨hring, hrx⟩, hrest⟩

theorem Block.RxInv.hearChars (hn : n.RxInv p u) (bs : List Byte) : (bs.foldl (Block.hearChar p) n).RxInv p u := by
  induction bs generalizing n with
  | nil => exact hn
  | cons b bs ih => exact ih (hn.hearChar b)

theorem Block.RxInv.hearBreak (hn : n.RxInv p u) : (n.hearBreak p).RxInv p u := hn.post rfl

/-- The receive side is kept when the receiver forgets the character in reception. -/
theorem Block.RxInv.idleReceiver (hn : n.RxInv p u) : Block.RxInv p u { n with hidden := .idle } := by
  obtain ⟨hid, hrx, hloop, -⟩ := hn
  exact ⟨hid, hrx, hloop, rfl⟩

theorem Block.RxInv.flush (hn : n.RxInv p u) : n.flush.RxInv p u := by
  obtain ⟨hid, ⟨-, -, -, hbuf⟩, hrest⟩ := hn
  exact ⟨hid, ⟨Nat.zero_le _, Nat.zero_le _, rfl, hbuf⟩, hrest⟩

theorem Block.RxInv.handOver (hn : n.RxInv p u) (hl : n.listening = true) (frame : List Byte) :
    (n.handOver frame).RxInv p u := by
  unfold Block.handOver
  split
  · exact hn
  · rename_i f hcb
    obtain ⟨hid, hrx, -, hhidden⟩ := hn
    exact ⟨hid, hrx, fun _ => ⟨hl, by simp [hcb]⟩, hhidden⟩

theorem Block.RxInv.takeBreak (hn : n.RxInv p u) (hl : n.listening = true) : (n.takeBreak p).RxInv p u := by
  obtain ⟨hid, ⟨hring, hevq, hok, hwf, hbelow⟩, hrest⟩ := hn
  have hdrop : (n.ring.drop (min n.rxCount n.ring.length)).length ≤ p.ringCap := by
    rw [List.length_drop]
    omega
  unfold Block.takeBreak
  split
  · exact ⟨hid, ⟨hdrop, hevq, hok, hwf, hbelow⟩, hrest⟩
  · rename_i hfits
    have hlen : 0 + (n.ring.take (min n.rxCount n.ring.length)).length ≤ p.rxBufCap := by
      simp only [Block.rxOverlong, decide_eq_true_eq] at hfits
      rw [List.length_take]
      omega
    refine Block.RxInv.handOver (n := { n.endFrame _ with rxBuf := _ }) ?_ hl _
    exact ⟨hid, ⟨hdrop, hevq, hok, Memory.wf_writeBytes _ _ _ hwf, Memory.below_writeBytes _ _ _ _ hlen hbelow⟩, hrest⟩

/-- The receive side is kept when the oldest event is taken. -/
theorem Block.RxInv.dropEvent (hn : n.RxInv p u) {e : Event} {es : List Event} (hcons : n.evq = e :: es) :
    Block.RxInv p u { n with evq := es } := by
  obtain ⟨hid, ⟨hring, hevq, hok, hbuf⟩, hrest⟩ := hn
  rw [hcons, List.length_cons] at hevq
  rw [hcons, List.all_cons, Bool.and_eq_true] at hok
  exact ⟨hid, ⟨hring, Nat.le_of_succ_le hevq, hok.2, hbuf⟩, hrest⟩

theorem Block.RxInv.loopStep (hn : n.RxInv p u) (hl : n.listening = true) (l : LoopStep) :
    (n.loopStep p l).RxInv p u := by
  cases l with
  | ringovf | qfull => exact Block.RxInv.flush (n := n.report _) hn
  | event =>
    simp only [Block.loopStep, Block.takeEvent]
    split
    · exact hn
    · rename_i k es hcons
      exact hn.dropEvent hcons
    · rename_i es hcons
      exact Block.RxInv.takeBreak (n := { n with evq := es }) (hn.dropEvent hcons) hl

theorem Block.RxInv.rxWait (hn : n.RxInv p u) (h : n.rxWait p = .next m) : m.RxInv p u := by
  obtain ⟨hfree, cs, d, rfl | ⟨-, rfl⟩ | ⟨l, rfl⟩⟩ := Block.rxWait_cases h
  · exact hn
  · exact Block.RxInv.flush (n := n) hn
  · exact Block.RxInv.loopStep (n := { n with quiet := .waiting, choices := cs, drawn := d }) hn
      (Block.loopFree_iff.mp hfree).1 l

theorem Block.RxInv.txByte (hn : n.RxInv p u) (h : n.txByte p = .next m) : m.RxInv p u := by
  obtain ⟨-, h⟩ := Block.guard_cases h
  split at h
  · cases h
  · split at h
    · cases h
      exact hn.sendChar _
    · cases h
      exact hn.draw.sendChar _

/-- Every operation keeps the name and the receive side of the unit it is performed on. -/
theorem Block.RxInv.perform {i : Instr} (hn : n.RxInv p u) (h : Block.perform p i n = .next m) : m.RxInv p u := by
  by_cases hi : i.answers = true
  · obtain ⟨o, rfl⟩ := Block.perform_answers h hi
    exact hn
  cases i with
  | crc8Clr | crc8Upd b | cfgLine =>
    cases h
    exact hn
  | lineChar b =>
    cases h
    exact hn.hearChar b
  | lineBreak =>
    cases h
    exact hn.hearBreak
  | ch b =>
    cases h
    exact hn.idleReceiver.hearChar b
  | brk k =>
    obtain ⟨-, h⟩ := Block.guard_cases h
    cases h
    exact hn.idleReceiver.hearBreak
  | poll1 b | poll2 b0 b1 =>
    cases h
    exact (hn.idleReceiver.hearChars _).hearBreak
  | rxWait => exact hn.rxWait h
  | rxEvData k =>
    obtain ⟨-, h⟩ := Block.asLoop_cases h
    cases h
    exact hn
  | rxEvBreak =>
    obtain ⟨hfree, h⟩ := Block.asLoop_cases h
    cases h
    exact hn.takeBreak (Block.loopFree_iff.mp hfree).1
  | rxDeliver frame =>
    obtain ⟨hfree, h⟩ := Block.asLoop_cases h
    cases h
    exact hn.handOver (Block.loopFree_iff.mp hfree).1 frame
  | rxEvRingovf | rxEvQfull =>
    obtain ⟨-, h⟩ := Block.asLoop_cases h
    obtain ⟨-, h⟩ := Block.guard_cases h
    cases h
    exact Block.RxInv.flush (n := n) hn
  | rxEvTimeout =>
    obtain ⟨-, h⟩ := Block.asLoop_cases h
    obtain ⟨-, h⟩ := Block.guard_cases h
    obtain ⟨-, rfl⟩ := Block.handleTimeout_next h
    exact Block.RxInv.flush (n := n) hn
  | cbReturn =>
    obtain ⟨-, h⟩ := Block.guard_cases h
    obtain ⟨-, h⟩ := Block.guard_cases h
    cases h
    obtain ⟨hid, hrx, -, hhidden⟩ := hn
    exact ⟨hid, hrx, nofun, hhidden⟩
  | txStart bytes ctx =>
    obtain ⟨-, h⟩ := Block.guard_cases h
    cases h
    split <;> exact hn
  | txByte => exact hn.txByte h
  | txGap =>
    obtain ⟨-, h⟩ := Block.guard_cases h
    obtain ⟨-, h⟩ := Block.guard_cases h
    cases h
    exact hn
  | txBrkAssert | txSendbreak ctx | dlyExpire =>
    obtain ⟨-, h⟩ := Block.guard_cases h
    cases h
    exact hn
  | txBrkRelease =>
    obtain ⟨-, h⟩ := Block.guard_cases h
    obtain ⟨-, h⟩ := Block.guard_cases h
    cases h
    unfold Block.retSent
    split <;> exact hn
  | dlyStart d =>
    obtain ⟨-, -, rfl⟩ := Block.dlyStart_cases h
    exact hn
  | cbRegister f =>
    cases h
    obtain ⟨hid, hrx, hloop, hhidden⟩ := hn
    exact ⟨hid, hrx, fun hc => ⟨(hloop hc).1, rfl⟩, hhidden⟩
  | listenStart =>
    cases h
    obtain ⟨hid, hrx, hloop, hhidden⟩ := hn
    exact ⟨hid, hrx, fun hc => ⟨rfl, (hloop hc).2⟩, hhidden⟩
  | rxFlush =>
    cases h
    exact hn.flush
  | resync ctx =>
    obtain ⟨-, h⟩ := Block.guard_cases h
    cases h
    exact hn.flush
  | reset =>
    cases h
    obtain ⟨rfl, -⟩ := hn
    exact Block.powerOn_rxInv p n.id
  | _ => exact absurd rfl hi

end Receive

/-! ## The invariant of the machine -/

/-- What every unit of the machine keeps, and that the second exists exactly when `N_INST` = 2. -/
abbrev State.UnitsInv (s : State) : Prop :=
  (∀ u n, s.unit? u = some n → n.RxInv s.params u ∧ n.TxInv s.params) ∧ s.second.isSome = s.params.forwarding

theorem State.inv_iff {s : State} : s.Inv ↔ s.UnitsInv ∧ s.here?.isSome = true := by
  constructor
  · rintro ⟨hfirst, hsecond, hexists, hhere⟩
    refine ⟨⟨fun u n hn => ?_, hexists⟩, hhere⟩
    cases u with
    | first =>
      cases hn
      exact Block.inv_iff.mp hfirst
    | second => exact Block.inv_iff.mp (hsecond n hn)
  · rintro ⟨⟨hunits, hexists⟩, hhere⟩
    exact ⟨Block.inv_iff.mpr (hunits .first _ rfl), fun n hn => Block.inv_iff.mpr (hunits .second n hn), hexists, hhere⟩

/-- Replacing the addressed unit by one that keeps its side of the invariant keeps the machine's. -/
theorem State.UnitsInv.put {s : State} {n m : Block} (hs : s.UnitsInv) (hn : s.here? = some n)
    (hm : m.RxInv s.params s.cur ∧ m.TxInv s.params) : (s.put m).Inv := by
  obtain ⟨hunits, hexists⟩ := hs
  refine State.inv_iff.mpr ⟨⟨fun u k hk => ?_, ?_⟩, by simp⟩
  · rw [State.put_params]
    by_cases hu : u = s.cur
    · obtain rfl : m = k := Option.some.inj ((State.here?_put s m).symm.trans (by simpa [State.here?, hu] using hk))
      exact hu ▸ hm
    · exact hunits u k (State.unit?_put_of_ne s m u hu ▸ hk)
  · rw [State.put_params, ← hexists]
    unfold State.here? at hn
    unfold State.put
    cases hcur : s.cur <;> simp_all [State.unit?]

/-- An operation keeps the invariant, each side of the addressed unit by its own lemma. -/
theorem State.UnitsInv.exec {s t : State} {i : Instr} (hs : s.UnitsInv) (h : exec i s = .next t) : t.Inv := by
  obtain ⟨n, m, hn, hp, rfl⟩ := exec_cases h
  obtain ⟨hrx, htx⟩ := hs.1 s.cur n hn
  obtain ⟨m', hstep, hm'⟩ := Block.perform_tx hp
  exact hs.put hn ⟨hrx.perform hp, (htx.txStep hstep).of_txSide_eq hm'⟩

/-! ## What is fetched keeps the invariant -/

/-- What is fetched leaves units that keep their invariant: whole, when the step ends there, and up to the existence
of the addressed unit, without which the operation to be run is refused. -/
def Fetched.Keeps : Fetched → Prop
  | .only s => s.Inv
  | .run _ s => s.UnitsInv
  | .idle | .refused _ => True

theorem Hidden.ok_sample (h : Hidden) (high : Bool) : (h.sample high).1.ok = true := by
  unfold Hidden.sample
  split
  · split
    · rename_i hroom
      simpa [Hidden.ok] using hroom
    · split <;> rfl
  · split
    · split
      · rfl
      · split <;> rfl
    · split <;> rfl

theorem fetchError_keeps {s : State} {n m : Block} (hs : s.UnitsInv) (hn : s.here? = some n)
    (hm : m.RxInv s.params s.cur ∧ m.TxInv s.params) : (fetchError m s).Keeps := by
  have hput := hs.put hn ⟨hm.1.draw, hm.2.of_txSide_eq m.draw_txSide⟩
  unfold fetchError
  split
  · exact hput
  · exact (State.inv_iff.mp hput).1

theorem fetchLevel_keeps {s : State} (hs : s.UnitsInv) (high : Bool) : (fetchLevel high s).Keeps := by
  unfold fetchLevel
  split
  · trivial
  · rename_i n hn
    obtain ⟨⟨hid, hrx, hloop, -⟩, htx⟩ := hs.1 s.cur n hn
    have hm : Block.RxInv s.params s.cur { n with hidden := (n.hidden.sample high).1 } :=
      ⟨hid, hrx, hloop, n.hidden.ok_sample high⟩
    have hput := hs.put hn ⟨hm, htx⟩
    dsimp only
    split
    · exact hput
    · exact (State.inv_iff.mp hput).1
    · exact (State.inv_iff.mp hput).1
    · exact fetchError_keeps hs hn ⟨hm, htx⟩

theorem fetchEcho_keeps {s : State} (hs : s.UnitsInv) : (fetchEcho s).Keeps := by
  unfold fetchEcho
  split
  · trivial
  · rename_i n hn
    have hput (es : List LineEvent) : State.Inv (s.put { n with echo := es }) := hs.put hn (hs.1 s.cur n hn)
    split
    · trivial
    · exact (State.inv_iff.mp (hput _)).1
    · exact (State.inv_iff.mp (hput _)).1

theorem fetchCode_keeps {s : State} (hs : s.UnitsInv) (c : Code) : (fetchCode c s).Keeps := by
  unfold fetchCode
  split
  · exact fetchLevel_keeps hs _
  · exact fetchEcho_keeps hs
  · split
    · trivial
    · exact hs

theorem fetchEntry_keeps {s : State} (hs : s.UnitsInv) (e : Entry) : (fetchEntry e s).Keeps :=
  fetchCode_keeps (s := { s with cur := e.dest }) hs e.code

theorem State.UnitsInv.pickTurn {s : State} (hs : s.UnitsInv) (k : Nat) : (s.pickTurn k).2.UnitsInv := by
  unfold State.pickTurn
  split
  · exact hs
  · split <;> exact hs

theorem fetch_keeps {s : State} (hs : s.UnitsInv) : s.fetch.Keeps := by
  unfold State.fetch
  split
  · unfold fetchOwn
    split
    · trivial
    · exact fetchEntry_keeps (hs.pickTurn _) _
  · rename_i e es _
    exact fetchEntry_keeps (s := { s with inbox := es }) hs e

/-! ## The statements -/

/-- Settles O54: what is fetched keeps what the units keep, and so does the operation then performed, on the transmit
side by its transmit step and on the receive side by its reaction. -/
theorem stepKeepsInvariant : Obligations.StepKeepsInvariant := by
  unfold Obligations.StepKeepsInvariant
  intro s t hs h
  have hfetch := fetch_keeps (State.inv_iff.mp hs).1
  obtain ⟨-, rfl⟩ | honly | ⟨i, s', hrun, hexec⟩ := step_cases h
  · exact hs
  · rw [honly] at hfetch
    exact hfetch
  · rw [hrun] at hfetch
    exact State.UnitsInv.exec hfetch hexec

/-- Settles O55: each unit that exists is as after power-on. -/
theorem resetMeetsInvariant : Obligations.ResetMeetsInvariant := by
  unfold Obligations.ResetMeetsInvariant
  refine State.inv_iff.mpr ⟨⟨fun u n hn => ?_, ?_⟩, rfl⟩
  · have hpower : Block.powerOn Config.params u = n := by
      cases u with
      | first => exact Option.some.inj hn
      | second => exact (Option.ite_none_right_eq_some.mp hn).2 |> Option.some.inj
    subst hpower
    exact ⟨Block.powerOn_rxInv _ u, Block.powerOn_txInv _ u⟩
  · simp [State.reset, apply_ite]

/-- Settles O45: a phase that changes is changed by one of the transmit steps, each from its own phase. -/
theorem phaseTransitions : Obligations.PhaseTransitions := by
  unfold Obligations.PhaseTransitions
  intro s t n m i hn h hm
  obtain ⟨m', hstep, hm'⟩ := Block.perform_tx (perform_of_exec hn h hm)
  rw [show m.txPhase = m'.txPhase from congrArg TxSide.txPhase hm']
  cases hstep with
  | keep | clear | update | startDelay | expire => exact .inl rfl
  | load bytes ctx hidle => exact .inr (.inl ⟨⟨bytes, ctx, rfl⟩, hidle, rfl⟩)
  | send b hbyte => simp [hbyte]
  | endGap hgap =>
    by_cases hmore : n.txIdx + 1 < n.txLen <;> simp [hgap, hmore]
  | assertBreak hassert => simp [hassert]
  | releaseBreak hhold => simp [hhold]
  | beginBreak ctx hi hidle => simp [hidle, hi]
  | reset => simp [Block.reset, Block.powerOn]

/-- Settles O50: the transmit steps that write the accumulator, `TXBUF` or the context are those of the CRC unit,
those that need an idle transmitter, and reset. -/
theorem whoWritesAccumulatorAndBuffer : Obligations.WhoWritesAccumulatorAndBuffer := by
  unfold Obligations.WhoWritesAccumulatorAndBuffer
  intro s t n m i hn h hm hreset
  obtain ⟨m', hstep, hm'⟩ := Block.perform_tx (perform_of_exec hn h hm)
  simp only [Block.txSide, TxSide.mk.injEq] at hm'
  obtain ⟨hacc, hbuf, hlen, -, -, hctx, -, -⟩ := hm'
  rw [hacc, hbuf, hlen, hctx]
  cases hstep with
  | clear => simp
  | update b => simp
  | load bytes ctx hidle => simp [hidle]
  | beginBreak ctx hi hidle => simp [hidle]
  | reset => exact absurd rfl hreset
  | keep | send | endGap | assertBreak | releaseBreak | startDelay | expire =>
    exact ⟨fun _ _ => rfl, fun _ => ⟨rfl, rfl, rfl⟩⟩

end Sys2Proof.Machine
end

section
/-! PROOF. The receiver bit time by bit time: what a run of levels completes, and the step that presents one. -/

namespace Sys2Proof.Machine

/-! ## What a run of bit times completes -/

theorem dataBits_eq : Config.dataBits = 8 := rfl

theorem charBits_eq : Config.charBits = 10 := rfl

@[simp] theorem length_bitsOfByte (b : Byte) : (bitsOfByte b).length = 8 := by simp [bitsOfByte]

/-- Listening to one run of levels and then to another. -/
theorem listen_append (h : Hidden) (vs ws : List Bool) :
    listen h (vs ++ ws) = ((listen (listen h vs).1 ws).1, (listen h vs).2 ++ (listen (listen h vs).1 ws).2) := by
  induction vs generalizing h with
  | nil => rfl
  | cons v vs ih =>
    simp only [List.cons_append, listen, ih]
    split <;> rfl

/-- Data bits of a character in reception are taken in one by one and complete nothing. The line has been low no longer
than since the start bit. -/
theorem listen_data (vs : List Bool) : ∀ (bs : List Bool) (l : Nat), bs.length + vs.length ≤ 8 →
    ∃ l' ≤ l + vs.length, listen { shift := some bs, lowTime := l } vs
      = ({ shift := some (bs ++ vs), lowTime := l' }, []) := by
  induction vs with
  | nil => intro bs l _; exact ⟨l, Nat.le_refl _, by simp [listen]⟩
  | cons v vs ih =>
    intro bs l hlen
    simp only [List.length_cons] at hlen ⊢
    obtain ⟨l', hl', h⟩ := ih (bs ++ [v]) (if v then 0 else l + 1) (by simp; omega)
    refine ⟨l', ?_, ?_⟩
    · split at hl' <;> omega
    · have hroom : bs.length < Config.dataBits := by rw [dataBits_eq]; omega
      simp [listen, Hidden.sample, hroom, h]

/-- A low level at an idle receiver begins a character. -/
theorem sample_idle_low : Hidden.idle.sample false = ({ shift := some [], lowTime := 1 }, .nothing) := rfl

/-- After a start bit and eight data bits the stop bit is awaited, the line low for at most nine bit times. -/
theorem listen_startBit_data (vs : List Bool) (h8 : vs.length = 8) :
    ∃ l ≤ 9, listen Hidden.idle ([false] ++ vs) = ({ shift := some vs, lowTime := l }, []) := by
  obtain ⟨l, hl, h⟩ := listen_data vs [] 1 (by simp [h8])
  exact ⟨l, by omega, by simpa [listen, sample_idle_low] using h⟩

/-- Once low beyond a character, the receiver counts low bit times. -/
theorem listen_low (j : Nat) : ∀ l : Nat, 0 < l → listen { shift := none, lowTime := l } (List.replicate j false)
    = ({ shift := none, lowTime := l + j }, []) := by
  induction j with
  | zero => intro l _; rfl
  | succ j ih =>
    intro l hl
    simp [List.replicate_succ, listen, Hidden.sample, Nat.ne_of_gt hl, ih (l + 1) (Nat.succ_pos l), Nat.add_assoc,
      Nat.add_comm 1 j]

theorem listen_character (b : Byte) :
    listen Hidden.idle ([false] ++ bitsOfByte b ++ [true]) = (Hidden.idle, [.char b]) := by
  obtain ⟨l, -, h⟩ := listen_startBit_data (bitsOfByte b) (length_bitsOfByte b)
  rw [listen_append, h]
  simp [listen, Hidden.sample, dataBits_eq, byteOfBits_bitsOfByte]

/-- A low stop bit and high again at once is a line error. -/
theorem listen_lineError (b : Byte) :
    listen Hidden.idle ([false] ++ bitsOfByte b ++ [false, true]) = (Hidden.idle, [.error]) := by
  obtain ⟨l, hl, h⟩ := listen_startBit_data (bitsOfByte b) (length_bitsOfByte b)
  have hshort : ¬10 < l + 1 := by omega
  rw [listen_append, h]
  simp [listen, Hidden.sample, dataBits_eq, charBits_eq, hshort]

theorem listen_break {k : Nat} (hk : 10 < k) :
    listen Hidden.idle (List.replicate k false ++ [true]) = (Hidden.idle, [.brk k]) := by
  obtain ⟨j, rfl⟩ := Nat.exists_eq_add_of_lt hk
  have hlow : listen Hidden.idle (List.replicate 10 false) = ({ shift := none, lowTime := 10 }, []) := by decide
  rw [Nat.add_assoc, List.replicate_add, listen_append, listen_append, hlow, listen_low _ _ (by omega)]
  simp [listen, Hidden.sample, charBits_eq]

/-- A line error is heard exactly when the line returns high, no character in reception, after a low period of at most
ten bit times. -/
theorem sample_eq_error_iff (h : Hidden) (high : Bool) :
    (h.sample high).2 = .error ↔ high = true ∧ h.shift = none ∧ 1 ≤ h.lowTime ∧ h.lowTime ≤ 10 := by
  obtain ⟨shift, l⟩ := h
  cases shift with
  | some bits =>
    simp only [Hidden.sample, reduceCtorEq, false_and, and_false, iff_false]
    split
    · exact nofun
    · split <;> exact nofun
  | none =>
    cases high with
    | false => by_cases hl : l = 0 <;> simp [Hidden.sample, hl]
    | true =>
      by_cases hl : l = 0
      · simp [Hidden.sample, hl]
      · by_cases hbrk : 10 < l
        · simp [Hidden.sample, charBits_eq, hl, hbrk]
        · simp [Hidden.sample, charBits_eq, hl, hbrk]
          omega

/-- A break is heard with the length of the low period, more than ten bit times. -/
theorem lowTime_of_sample_eq_brk {h : Hidden} {high : Bool} {k : Nat} (hk : (h.sample high).2 = .brk k) :
    10 < k ∧ k = h.lowTime := by
  unfold Hidden.sample at hk
  split at hk
  · split at hk
    · cases hk
    · split at hk <;> cases hk
  · split at hk
    · split at hk
      · cases hk
      · split at hk
        · rename_i hlong
          cases hk
          exact ⟨hlong, rfl⟩
        · cases hk
    · split at hk <;> cases hk

/-! ## The step that presents one bit time -/

theorem step_of_fetch_only {s t : State} (h : s.fetch = .only t) : step s = .next t := by
  simp only [step, h]

/-- Everything a line error can be fetched as: nothing, or a character of some byte. -/
theorem fetchError_cases (n : Block) (s : State) : ∃ cs d,
    fetchError n s = .only (s.put { n with choices := cs, drawn := d })
    ∨ ∃ b, fetchError n s = .run (.lineChar b) (s.put { n with choices := cs, drawn := d }) := by
  obtain ⟨cs, d, hd⟩ := n.draw_snd
  refine ⟨cs, d, ?_⟩
  rw [← hd]
  unfold fetchError
  split
  · exact .inl rfl
  · exact .inr ⟨_, rfl⟩

theorem fetchError_of_choice_zero {n : Block} {cs : List Nat} (h : n.choices = 0 :: cs) (s : State) :
    fetchError n s = .only (s.put { n with choices := cs }) := by
  simp [fetchError, Block.draw, h]

theorem fetchError_of_choice_succ {n : Block} {c : Nat} {cs : List Nat} (h : n.choices = (c + 1) :: cs) (s : State) :
    fetchError n s = .run (.lineChar (.ofNat 8 c)) (s.put { n with choices := cs }) := by
  simp [fetchError, Block.draw, h]

section Level

variable {s : State} {n : Block} {id : UnitId} {high : Bool} {es : List Entry}

theorem fetch_of_level (hin : s.inbox = { dest := id, code := .level high } :: es) :
    s.fetch = fetchLevel high { s with cur := id, inbox := es } :=
  fetch_of_inbox_cons hin

theorem fetchLevel_of_nothing (hn : s.here? = some n) (h : (n.hidden.sample high).2 = .nothing) :
    fetchLevel high s = .only (s.put { n with hidden := (n.hidden.sample high).1 }) := by
  simp only [fetchLevel, hn, h]

theorem fetchLevel_of_char {b : Byte} (hn : s.here? = some n) (h : (n.hidden.sample high).2 = .char b) :
    fetchLevel high s = .run (.ch b) (s.put { n with hidden := (n.hidden.sample high).1 }) := by
  simp only [fetchLevel, hn, h]

theorem fetchLevel_of_brk {k : Nat} (hn : s.here? = some n) (h : (n.hidden.sample high).2 = .brk k) :
    fetchLevel high s = .run (.brk k) (s.put { n with hidden := (n.hidden.sample high).1 }) := by
  simp only [fetchLevel, hn, h]

theorem fetchLevel_of_error (hn : s.here? = some n) (h : (n.hidden.sample high).2 = .error) :
    fetchLevel high s = fetchError { n with hidden := (n.hidden.sample high).1 } s := by
  simp only [fetchLevel, hn, h]

end Level

/-- Settles O25: a character's levels are taken in one after the other, a low period is counted, and the step performs
what the bit time it presents completes. -/
theorem bitTimesCompleteCharactersAndBreaks : Obligations.BitTimesCompleteCharactersAndBreaks := by
  unfold Obligations.BitTimesCompleteCharactersAndBreaks
  refine ⟨fun b => ⟨listen_character b, listen_lineError b⟩, fun k => listen_break, fun h high =>
    ⟨sample_eq_error_iff h high, fun k => lowTime_of_sample_eq_brk⟩, ?_⟩
  intro s n id high es hn hin s' n'
  have hfetch : s.fetch = fetchLevel high s' := fetch_of_level hin
  have hhere : s'.here? = some n := hn
  refine ⟨fun h => ?_, fun b h => ?_, fun k h => ?_, fun h => ?_⟩
  · exact step_of_fetch_only (hfetch.trans (fetchLevel_of_nothing hhere h))
  · exact step_of_fetch_run (hfetch.trans (fetchLevel_of_char hhere h))
  · exact step_of_fetch_run (hfetch.trans (fetchLevel_of_brk hhere h))
  · have herror : s.fetch = fetchError n' s' := hfetch.trans (fetchLevel_of_error hhere h)
    refine ⟨?_, fun cs hcs => ?_, fun b cs hcs => ?_⟩
    · obtain ⟨cs, d, honly | ⟨b, hrun⟩⟩ := fetchError_cases n' s'
      · exact ⟨cs, d, .inl (step_of_fetch_only (herror.trans honly))⟩
      · exact ⟨cs, d, .inr ⟨b, step_of_fetch_run (herror.trans hrun)⟩⟩
    · exact step_of_fetch_only (herror.trans (fetchError_of_choice_zero (n := n') hcs s'))
    · have hrun := fetchError_of_choice_succ (n := n') hcs s'
      rw [BitVec.ofNat_toNat, BitVec.setWidth_eq] at hrun
      exact step_of_fetch_run (herror.trans hrun)

end Sys2Proof.Machine
end

section
/-! PROOF. A field that the telegram does not carry whole. -/

namespace Sys2Proof.Machine

/-- A field has no place in the payload exactly when it begins before it or ends after it (42_fields R180). -/
theorem locate_eq_none_iff {t : Telegram} {pos w : Nat} :
    locate t pos w = none ↔ pos < t.offset.toNat ∨ t.offset.toNat + t.data.length < pos + w := by
  unfold locate
  split
  · simp [*]
  · split <;> simp [*]

/-- The answer for a field that has no place in the payload (42_fields R185). -/
theorem Block.field_of_locate_eq_none {t : Telegram} {pos w : Nat} (h : locate t pos w = none) (n : Block)
    (value : Nat → Result) : n.field t pos w value = { n with out := n.out ++ [.ret .absent] } := by
  simp only [Block.field, h]
  rfl

/-- Settles O20: the field has no place in the payload, so each of the operations, its operands in range, answers
absent. -/
theorem fieldOutsideIsAbsent : Obligations.FieldOutsideIsAbsent := by
  unfold Obligations.FieldOutsideIsAbsent
  intro s n t pos w hn hw1 hw4 hout
  have hnone := locate_eq_none_iff.mpr hout
  have hrange : ¬(w = 0 ∨ 4 < w) := by omega
  refine ⟨exec_next hn ?_, exec_next hn ?_, fun hw3 => exec_next hn ?_⟩
  · rw [Block.perform, Block.fxU, if_neg hrange, n.field_of_locate_eq_none hnone]
  · rw [Block.perform, Block.fxS, if_neg hrange, n.field_of_locate_eq_none hnone]
  · rw [Block.perform, Block.fxS24, n.field_of_locate_eq_none (hw3 ▸ hnone)]

end Sys2Proof.Machine
end

section
/-! PROOF. The step that presents an echo. -/

namespace Sys2Proof.Machine

section Echo

variable {s : State} {n : Block}

theorem fetch_of_echo {id : UnitId} {es : List Entry} (hin : s.inbox = { dest := id, code := .echo } :: es) :
    s.fetch = fetchEcho { s with cur := id, inbox := es } :=
  fetch_of_inbox_cons hin

theorem fetchEcho_of_char {b : Byte} {rest : List LineEvent} (hn : s.here? = some n) (h : n.echo = .char b :: rest) :
    fetchEcho s = .run (.lineChar b) (s.put { n with echo := rest }) := by
  simp only [fetchEcho, hn, h]

theorem fetchEcho_of_brk {rest : List LineEvent} (hn : s.here? = some n) (h : n.echo = .brk :: rest) :
    fetchEcho s = .run .lineBreak (s.put { n with echo := rest }) := by
  simp only [fetchEcho, hn, h]

theorem fetchEcho_of_nil (hn : s.here? = some n) (h : n.echo = []) : fetchEcho s = .refused .noEcho := by
  simp only [fetchEcho, hn, h]

end Echo

/-- Settles O26: what is fetched is the oldest echo of the addressed unit, which leaves the queue. -/
theorem echoIsReceivedInOrder : Obligations.EchoIsReceivedInOrder := by
  unfold Obligations.EchoIsReceivedInOrder
  intro s n id es hn hin s'
  have hfetch : s.fetch = fetchEcho s' := fetch_of_echo hin
  have hhere : s'.here? = some n := hn
  refine ⟨fun b rest h => ?_, fun rest h => ?_, fun h => ?_⟩
  · exact step_of_fetch_run (hfetch.trans (fetchEcho_of_char hhere h))
  · exact step_of_fetch_run (hfetch.trans (fetchEcho_of_brk hhere h))
  · exact step_of_fetch_refused (hfetch.trans (fetchEcho_of_nil hhere h))

end Sys2Proof.Machine
end

section
/-! PROOF. What the host sees of the loop context while a callback runs. -/

namespace Sys2Proof.Machine

/-! ## Operations that only answer return their answer -/

theorem Block.answer_eq_ret (n : Block) (r : Result) : n.answer r = n.ret r := by
  cases r <;> rfl

theorem Block.field_eq_ret (n : Block) (t : Telegram) (pos w : Nat) (value : Nat → Result) :
    ∃ r, n.field t pos w value = n.ret r := by
  unfold Block.field
  split <;> exact ⟨_, rfl⟩

/-- `perform_answers` with the kind of output: an operation that only answers emits a result to its caller, neither a
frame nor a warning. -/
theorem Block.perform_answers_ret {p : Params} {i : Instr} {n m : Block} (h : Block.perform p i n = .next m)
    (hi : i.answers = true) : ∃ r, m = n.ret r := by
  cases i with
  | crc8Rd | crc8Blk buf | encode t | classify len =>
    cases h
    exact ⟨_, rfl⟩
  | crc8Chk raw len =>
    obtain ⟨-, h⟩ := Block.guard_cases h
    obtain ⟨-, h⟩ := Block.guard_cases h
    cases h
    exact ⟨_, rfl⟩
  | decode raw len | decXrd raw | decXwr raw | decLeg raw =>
    obtain ⟨-, h⟩ := Block.guard_cases h
    cases h
    exact ⟨_, n.answer_eq_ret _⟩
  | fxLocate t pos w | fxU t pos w | fxS t pos w | fxBit t pos bit =>
    obtain ⟨-, h⟩ := Block.guard_cases h
    cases h
    exact n.field_eq_ret ..
  | fxS24 t pos =>
    cases h
    exact n.field_eq_ret ..
  | decTooshort raw | encLegRd t | encLegWr t | encXRd t | encXWr t =>
    obtain ⟨-, h⟩ := Block.guard_cases h
    cases h
    exact ⟨_, rfl⟩
  | _ => cases hi

/-! ## The host's view of the loop context -/

/-- What only the loop context emits: a frame delivered (43_rx_framer R204) or a warning (60_exceptions R265). -/
def Output.ofLoop : Output → Bool
  | .frame _ _ _ | .warn _ => true
  | .lineChar _ | .lineLow | .lineRelease | .ret _ => false

/-- What the host sees of the loop context: whether a callback runs, and the frames and warnings so far. -/
def Block.hostView (n : Block) : Bool × List Output := (n.inCallback, n.out.filter Output.ofLoop)

/-- As many frames and warnings of each kind have been emitted when the host sees the same. -/
theorem Block.count_out_of_hostView_eq {n m : Block} (h : m.hostView = n.hostView) {o : Output}
    (ho : o.ofLoop = true) : m.out.count o = n.out.count o := by
  have hout : m.out.filter Output.ofLoop = n.out.filter Output.ofLoop := congrArg Prod.snd h
  rw [← List.count_filter (l := m.out) ho, hout, List.count_filter ho]

/-- The host sees nothing of what is not emitted by the loop context. -/
theorem Block.emit_hostView {o : Output} (ho : o.ofLoop = false) (n : Block) : (n.emit o).hostView = n.hostView := by
  simp [Block.hostView, ho]

@[simp] theorem Block.ret_hostView (n : Block) (r : Result) : (n.ret r).hostView = n.hostView :=
  Block.emit_hostView rfl n

@[simp] theorem Block.draw_hostView (n : Block) : (n.draw).2.hostView = n.hostView := by
  obtain ⟨cs, d, h⟩ := n.draw_snd
  rw [h]
  rfl

@[simp] theorem Block.hearBreak_hostView (p : Params) (n : Block) : (n.hearBreak p).hostView = n.hostView := by
  obtain ⟨-, h⟩ | ⟨-, h⟩ := n.post_cases p .brk <;> rw [Block.hearBreak, h] <;> rfl

@[simp] theorem Block.postChar_hostView (p : Params) (n : Block) : (n.postChar p).hostView = n.hostView := by
  obtain ⟨-, h⟩ | ⟨-, cs, d, h⟩ | ⟨-, pre, k, cs, d, -, h⟩ := n.postChar_cases p <;> rw [h] <;> rfl

@[simp] theorem Block.hearChar_hostView (p : Params) (n : Block) (b : Byte) : (n.hearChar p b).hostView = n.hostView := by
  unfold Block.hearChar
  split
  · exact Block.postChar_hostView ..
  · rfl

@[simp] theorem Block.hearChars_hostView (p : Params) (bs : List Byte) (n : Block) :
    (bs.foldl (Block.hearChar p) n).hostView = n.hostView := by
  induction bs generalizing n with
  | nil => rfl
  | cons b bs ih => exact (ih _).trans (n.hearChar_hostView p b)

@[simp] theorem Block.sendChar_hostView (p : Params) (n : Block) (b : Byte) : (n.sendChar p b).hostView = n.hostView :=
  Block.emit_hostView (o := .lineChar b) rfl n

theorem Block.txByte_hostView {p : Params} {n m : Block} (h : n.txByte p = .next m) : m.hostView = n.hostView := by
  obtain ⟨-, h⟩ := Block.guard_cases h
  split at h
  · cases h
  · split at h
    · cases h
      exact n.sendChar_hostView p _
    · cases h
      exact ((n.draw).2.sendChar_hostView p _).trans n.draw_hostView

@[simp] theorem Block.retSent_hostView (n : Block) : n.retSent.hostView = n.hostView := by
  unfold Block.retSent
  split
  · rfl
  · exact n.ret_hostView _

/-! ## During a callback -/

/-- The loop context takes no step while a callback runs (60_exceptions R279). -/
theorem Block.asLoop_ne_next_of_inCallback {n : Block} (hcb : n.inCallback = true)
    (o : Host.Outcome Block Fault Refusal) (m : Block) : n.asLoop o ≠ .next m := by
  intro h
  obtain ⟨hfree, -⟩ := Block.asLoop_cases h
  obtain ⟨-, hnot, -⟩ := Block.loopFree_iff.mp hfree
  cases hcb.symm.trans hnot

/-- While a callback runs an operation changes nothing the host sees of the loop context, unless it ends the callback,
and then it emits nothing. -/
theorem Block.perform_hostView_of_inCallback {p : Params} {i : Instr} {n m : Block}
    (h : Block.perform p i n = .next m) (hcb : n.inCallback = true) :
    m.hostView = n.hostView ∨ ((i = .cbReturn ∨ i = .reset) ∧ m.out = n.out) := by
  by_cases hi : i.answers = true
  · obtain ⟨r, rfl⟩ := Block.perform_answers_ret h hi
    exact .inl (n.ret_hostView r)
  cases i with
  | rxWait | rxEvData k | rxEvBreak | rxEvRingovf | rxEvQfull | rxEvTimeout | rxDeliver frame =>
    exact absurd h (Block.asLoop_ne_next_of_inCallback hcb _ m)
  | cbReturn =>
    obtain ⟨-, h⟩ := Block.guard_cases h
    obtain ⟨-, h⟩ := Block.guard_cases h
    cases h
    exact .inr ⟨.inl rfl, rfl⟩
  | reset =>
    cases h
    exact .inr ⟨.inr rfl, rfl⟩
  | lineChar b | ch b =>
    cases h
    exact .inl (Block.hearChar_hostView ..)
  | lineBreak =>
    cases h
    exact .inl (Block.hearBreak_hostView ..)
  | brk k =>
    obtain ⟨-, h⟩ := Block.guard_cases h
    cases h
    exact .inl (Block.hearBreak_hostView ..)
  | poll1 b | poll2 b0 b1 =>
    cases h
    exact .inl ((Block.hearBreak_hostView ..).trans (Block.hearChars_hostView ..))
  | txStart bytes ctx =>
    obtain ⟨-, h⟩ := Block.guard_cases h
    cases h
    split
    · exact .inl (n.ret_hostView (.bool false))
    · exact .inl rfl
  | txByte => exact .inl (Block.txByte_hostView h)
  | txBrkAssert =>
    obtain ⟨-, h⟩ := Block.guard_cases h
    cases h
    exact .inl (Block.emit_hostView (o := .lineLow) rfl n)
  | txBrkRelease =>
    obtain ⟨-, h⟩ := Block.guard_cases h
    obtain ⟨-, h⟩ := Block.guard_cases h
    cases h
    exact .inl ((Block.retSent_hostView _).trans (Block.emit_hostView (o := .lineRelease) rfl n))
  | txGap =>
    obtain ⟨-, h⟩ := Block.guard_cases h
    obtain ⟨-, h⟩ := Block.guard_cases h
    cases h
    exact .inl rfl
  | txSendbreak ctx | resync ctx | dlyExpire =>
    obtain ⟨-, h⟩ := Block.guard_cases h
    cases h
    exact .inl rfl
  | dlyStart d =>
    obtain ⟨-, -, rfl⟩ := Block.dlyStart_cases h
    exact .inl rfl
  | crc8Clr | crc8Upd b | cfgLine | cbRegister f | rxFlush | listenStart =>
    cases h
    exact .inl rfl
  | _ => exact absurd rfl hi

/-- Settles O51: the loop context takes no step during a callback, and no other operation delivers or warns. -/
theorem oneCallbackAtATime : Obligations.OneCallbackAtATime := by
  unfold Obligations.OneCallbackAtATime
  intro s t n m i hn h hm hcb
  obtain hview | ⟨hend, hout⟩ := Block.perform_hostView_of_inCallback (perform_of_exec hn h hm) hcb
  · refine ⟨fun o ho => Block.count_out_of_hostView_eq hview ?_, .inl ((congrArg Prod.fst hview).trans hcb)⟩
    obtain ⟨bs, k, c, rfl⟩ | ⟨w, rfl⟩ := ho <;> rfl
  · exact ⟨fun o _ => by rw [hout], .inr hend⟩

end Sys2Proof.Machine
end

section
/-! PROOF. Decoding gives back what the encoder presents: operand bytes reader by reader, then the wire formats. -/

namespace Sys2Proof

/-! ## Requests -/

/-- A reader takes an operand off the front of its bytes, whatever follows. -/
def Reads {α : Type} (g : List Byte → Got α) (bs : List Byte) (a : α) : Prop := ∀ r, g (bs ++ r) = .ok (a, r)

namespace Reads

variable {α β : Type} {g : List Byte → Got α} {bs cs : List Byte} {a : α} {b : β}

/-- An operand, then what is read once it is known. -/
theorem followedBy {f : α → List Byte → Got β} (ha : Reads g bs a) (hb : Reads (f a) cs b) :
    Reads (fun r => chain (g r) f) (bs ++ cs) b := by
  intro r
  dsimp only
  rw [List.append_assoc, ha, chain_ok, hb]

/-- The last operand, and what is made of it. -/
theorem last {mk : α → β} (ha : Reads g bs a) :
    Reads (fun r => chain (g r) fun a r => .ok (mk a, r)) bs (mk a) := by
  intro r
  dsimp only
  rw [ha, chain_ok]

theorem byte (b : Byte) : Reads getByte [b] b := getByte_cons b

theorem nat {n : Nat} (h : fitsNat n = true) : Reads getNat (putNat n) n := fun r => getNat_putNat n r h

theorem bytes (h : fitsBytes bs = true) : Reads getBytes (putBytes bs) bs := fun r => getBytes_putBytes bs r h

theorem ctx (c : Ctx) : Reads getCtx [ctxByte c] c := getCtx_ctxByte c

theorem delay (d : Delay) : Reads getDelay [delayByte d] d := getDelay_delayByte d

theorem telegram {t : Telegram} (h : fitsBytes t.data = true) : Reads getTelegram (putTelegram t) t :=
  fun r => getTelegram_putTelegram t r h

end Reads

/-- A request decodes to the operation that its operand bytes read as (30_encoding R115, log 2). -/
theorem decode_op_of_reads {index : Byte} {bs : List Byte} {i : Instr} (h : Reads (decodeOperands index) bs i) :
    decode (.op (index :: bs)) = .ok i := by
  have hnil := h []
  rw [List.append_nil] at hnil
  rw [decode, decodeOp, hnil]
  rfl

/-- A number bounded by one that four operand bytes hold. -/
theorem fitsNat_of_le {n k : Nat} (h : n ≤ k) (hk : k < 4294967296) : fitsNat n = true :=
  decide_eq_true (Nat.lt_of_le_of_lt h hk)

/-! ## Characters and breaks -/

@[simp] theorem length_charLevels (b : Byte) : (charLevels b).length = Config.charBits := by
  simp [charLevels, bitsOfByte, Config.charBits, Config.dataBits, Config.stopBits]

/-- A character's levels decode to it (30_encoding R91). -/
theorem decodeLevels_charLevels (b : Byte) : decodeLevels (charLevels b) = .ok (.ch b) := by
  have hframed : (charLevels b).head? = some false ∧ (charLevels b).getLast? = some true := by
    simp [charLevels, List.getLast?_cons]
  have hdata : ((charLevels b).drop 1).take Config.dataBits = bitsOfByte b :=
    List.take_left' (by simp [bitsOfByte, Config.dataBits])
  rw [decodeLevels, if_pos ⟨length_charLevels b, hframed⟩, hdata, byteOfBits_bitsOfByte]

/-- A low period longer than a character decodes to a break of its length (30_encoding R92). -/
theorem decodeLevels_low {k : Nat} (h : Config.charBits < k) :
    decodeLevels (List.replicate k false) = .ok (.brk k) := by
  simp [decodeLevels, h, Nat.ne_of_gt h]

/-! ## The row a frame selects -/

/-- The frames of the extended dialect (30_encoding R99, R112). -/
theorem isExtended_iff {raw : List Byte} :
    isExtended raw = true ↔ 6 ≤ raw.length ∧ raw.getD 2 0 = 0xFF := by
  rw [isExtended, Bool.and_eq_true, decide_eq_true_eq, beq_iff_eq]
  rfl

theorem five_le_length_of_isExtended {raw : List Byte} (h : isExtended raw = true) : 5 ≤ raw.length := by
  have hlen := (isExtended_iff.mp h).1
  omega

theorem decodeFrameRow_of_selectsXrd {raw : List Byte} (h : selectsXrd raw = true) :
    decodeFrameRow raw = .decXrd raw := by
  rw [decodeFrameRow, if_pos h]

theorem decodeFrameRow_of_selectsXwr {raw : List Byte} (h : selectsXwr raw = true) :
    decodeFrameRow raw = .decXwr raw := by
  have hread : ¬selectsXrd raw = true := by simp_all [selectsXrd, selectsXwr]
  rw [decodeFrameRow, if_neg hread, if_pos h]

/-- The first two rows are for extended frames only. -/
theorem decodeFrameRow_of_not_isExtended {raw : List Byte} (h : isExtended raw = false) :
    decodeFrameRow raw = if selectsLeg raw then .decLeg raw else .decTooshort raw := by
  simp [decodeFrameRow, selectsXrd, selectsXwr, h]

theorem decodeFrameRow_of_selectsLeg {raw : List Byte} (h : selectsLeg raw = true) :
    decodeFrameRow raw = .decLeg raw := by
  have hext : isExtended raw = false := by simp_all [selectsLeg]
  rw [decodeFrameRow_of_not_isExtended hext, if_pos h]

theorem decodeFrameRow_of_selectsTooshort {raw : List Byte} (h : selectsTooshort raw = true) :
    decodeFrameRow raw = .decTooshort raw := by
  have hlen : ¬5 ≤ raw.length := by simpa [selectsTooshort] using h
  have hext : isExtended raw = false := Bool.eq_false_iff.mpr (mt five_le_length_of_isExtended hlen)
  have hleg : ¬selectsLeg raw = true := by simp [selectsLeg, hlen]
  rw [decodeFrameRow_of_not_isExtended hext, if_neg hleg]

/-! ## Every operation -/

/-- Decoding how an operation is presented gives it back: a request by reading its operands in their order, a wire
format by the row its levels, frame or telegram select. -/
theorem decode_encode {i : Instr} (h : i.wf = true) : decode (encode i) = .ok i := by
  cases i with
  | crc8Clr | crc8Rd | lineBreak | rxWait | rxEvBreak | rxEvRingovf | rxEvQfull | rxEvTimeout | cbReturn | txByte
  | txGap | txBrkAssert | txBrkRelease | dlyExpire | cfgLine | rxFlush | listenStart | reset => rfl
  | crc8Upd b | lineChar b => exact decode_op_of_reads (.last (.byte b))
  | txSendbreak c | resync c => exact decode_op_of_reads (.last (.ctx c))
  | dlyStart d => exact decode_op_of_reads (.last (.delay d))
  | classify n | cbRegister n => exact decode_op_of_reads (.last (.nat h))
  | rxEvData n => exact decode_op_of_reads (.last (.nat (Bool.and_eq_true_iff.mp h).2))
  | crc8Blk bs | rxDeliver bs => exact decode_op_of_reads (.last (.bytes h))
  | txStart bs c => exact decode_op_of_reads (.followedBy (.ctx c) (.last (.bytes h)))
  | crc8Chk raw n | decode raw n =>
    simp only [Instr.wf, Bool.and_eq_true, decide_eq_true_eq, and_assoc] at h
    obtain ⟨rfl, hraw⟩ : n = raw.length ∧ fitsBytes raw = true := by tauto
    exact decode_op_of_reads (.followedBy (.nat hraw) (.last (.bytes hraw)))
  | encode t => exact decode_op_of_reads (.last (.telegram h))
  | fxS24 t pos =>
    obtain ⟨hpos, ht⟩ := Bool.and_eq_true_iff.mp h
    exact decode_op_of_reads (.followedBy (.nat hpos) (.last (.telegram ht)))
  | fxLocate t pos w =>
    simp only [Instr.wf, Bool.and_eq_true] at h
    obtain ⟨⟨⟨-, hpos⟩, hw⟩, ht⟩ := h
    exact decode_op_of_reads (.followedBy (.nat hpos) (.followedBy (.nat hw) (.last (.telegram ht))))
  | fxU t pos w | fxS t pos w =>
    simp only [Instr.wf, Bool.and_eq_true, decide_eq_true_eq] at h
    obtain ⟨⟨⟨-, hw⟩, hpos⟩, ht⟩ := h
    exact decode_op_of_reads
      (.followedBy (.nat hpos) (.followedBy (.nat (fitsNat_of_le hw (by decide))) (.last (.telegram ht))))
  | fxBit t pos bit =>
    simp only [Instr.wf, Bool.and_eq_true, decide_eq_true_eq] at h
    obtain ⟨⟨hbit, hpos⟩, ht⟩ := h
    exact decode_op_of_reads
      (.followedBy (.nat hpos) (.followedBy (.nat (fitsNat_of_le hbit (by decide))) (.last (.telegram ht))))
  | ch b => exact decodeLevels_charLevels b
  | brk k => exact decodeLevels_low (of_decide_eq_true h)
  | poll1 b | poll2 b0 b1 => rfl
  | decXrd raw => exact congrArg _ (decodeFrameRow_of_selectsXrd h)
  | decXwr raw => exact congrArg _ (decodeFrameRow_of_selectsXwr h)
  | decLeg raw => exact congrArg _ (decodeFrameRow_of_selectsLeg h)
  | decTooshort raw => exact congrArg _ (decodeFrameRow_of_selectsTooshort h)
  | encLegRd t | encLegWr t | encXRd t | encXWr t =>
    simp only [Instr.wf, Bool.and_eq_true, Bool.not_eq_true'] at h
    obtain ⟨hext, hread⟩ := h
    simp only [encode, decode, decodeTelegramRow, hext, hread]

/-- Settles O59: each operation by the format in which it is presented. -/
theorem requestRoundTrip : Obligations.RequestRoundTrip := by
  unfold Obligations.RequestRoundTrip
  exact fun i => decode_encode

/-- Settles O60: every word but the reserved index is how its operation is presented, written out. -/
theorem wordsDecode : Obligations.WordsDecode := by
  unfold Obligations.WordsDecode
  exact ⟨decode_encode (i := .crc8Clr) rfl, decode_encode (i := .lineChar 0x8B) rfl, decode_encode (i := .reset) rfl,
    rfl, decode_encode (i := .ch 0x8B) rfl, decode_encode (i := .brk 11) rfl, decode_encode (i := .poll1 0x8B) rfl,
    decode_encode (i := .decXrd _) rfl, decode_encode (i := .decLeg _) rfl⟩

end Sys2Proof
end

section
/-! PROOF. The wire-format rows as operations: the decode and encode rows are DECODE and ENCODE where they are
selected, and the received formats are the line's characters and breaks. -/

namespace Sys2Proof.Machine

/-! ## Selecting a row -/

/-- Bit 7 of byte 1 as a bound on the byte (30_encoding R93). -/
theorem readFlag_iff {raw : List Byte} : readFlag raw = true ↔ 0x80 ≤ (raw.getD 1 0).toNat := by
  rw [readFlag, byteAt, ← BitVec.msb_eq_getLsbD_last (w := 8), BitVec.msb_eq_decide, decide_eq_true_eq]

theorem selectsXrd_iff {raw : List Byte} : selectsXrd raw = true ↔
    (6 ≤ raw.length ∧ raw.getD 2 0 = 0xFF) ∧ 0x80 ≤ (raw.getD 1 0).toNat := by
  rw [selectsXrd, Bool.and_eq_true, isExtended_iff, readFlag_iff]

theorem selectsXwr_iff {raw : List Byte} : selectsXwr raw = true ↔
    (6 ≤ raw.length ∧ raw.getD 2 0 = 0xFF) ∧ ¬0x80 ≤ (raw.getD 1 0).toNat := by
  rw [selectsXwr, Bool.and_eq_true, Bool.not_eq_true', ← Bool.not_eq_true, isExtended_iff, readFlag_iff]

theorem selectsLeg_iff {raw : List Byte} : selectsLeg raw = true ↔
    5 ≤ raw.length ∧ ¬(6 ≤ raw.length ∧ raw.getD 2 0 = 0xFF) := by
  rw [selectsLeg, Bool.and_eq_true, Bool.not_eq_true', ← Bool.not_eq_true, isExtended_iff, decide_eq_true_eq, and_comm]

theorem selectsTooshort_iff {raw : List Byte} : selectsTooshort raw = true ↔ raw.length < 5 :=
  decide_eq_true_iff

theorem isExt_iff {t : Telegram} : t.isExt = true ↔ 0xFF < t.typeId.toNat := decide_eq_true_iff

theorem isRead_iff {t : Telegram} : t.isRead = true ↔ t.operation = .read ∨ t.operation = .readWithData := by
  unfold Telegram.isRead
  cases t.operation <;> simp

/-- A row completes where it is selected, and is refused elsewhere (30_encoding R116, log 14). -/
theorem exec_row {i : Instr} {s : State} {n m m' : Block} {selected : Bool} {c : Prop} (hn : s.here? = some n)
    (hsel : selected = true ↔ c)
    (hi : Block.perform s.params i n = if selected = false then .refused .rowNotSelected else .next m')
    (hm : selected = true → m' = m) :
    (c → exec i s = .next (s.put m)) ∧ (¬c → exec i s = .refused .rowNotSelected) := by
  rw [← hsel]
  cases selected with
  | true => exact ⟨fun _ => exec_next hn (hm rfl ▸ hi), fun h => absurd rfl h⟩
  | false => exact ⟨nofun, fun _ => exec_refused hn hi⟩

/-! ## DECODE by rows -/

section Decode

variable (p : Params) {raw : List Byte}

/-- What a decode row answers: a checksum error, or what the row's own rule gives (41_codec R150). -/
def checkedLayout (raw : List Byte) (rule : List Byte → Operation → Byte → Byte → Result) : Result :=
  if crcHolds p raw = false then .checksumError
  else rule raw (operationOf (byteAt raw 1)) (byteAt raw 0 &&& Config.idMask) (byteAt raw 1 &&& Config.idMask)

/-- The test with which DECODE takes the legacy layout (41_codec R150). -/
theorem takesLegacyLayout_iff :
    (byteAt raw 2 ≠ Config.extMarker ∨ raw.length < Config.extMinLen) ↔ ¬isExtended raw = true := by
  rw [isExtended, Bool.and_eq_true, decide_eq_true_eq, beq_iff_eq, not_and_or, Nat.not_le, or_comm]

/-- DECODE of an extended frame takes the read or the write layout by the read flag. -/
theorem decodeFrame_of_isExtended (h : isExtended raw = true) : decodeFrame p raw =
    if readFlag raw then checkedLayout p raw decodeXrd else checkedLayout p raw decodeXwr := by
  have h5 : ¬raw.length < 5 := Nat.not_lt.mpr (five_le_length_of_isExtended h)
  rw [decodeFrame, if_neg h5, if_neg (takesLegacyLayout_iff.not_left.mpr h), ← readFlag]
  unfold checkedLayout
  split <;> split <;> rfl

theorem decodeFrame_of_selectsXrd (h : selectsXrd raw = true) :
    decodeFrame p raw = checkedLayout p raw decodeXrd := by
  obtain ⟨hext, hread⟩ := Bool.and_eq_true_iff.mp h
  rw [decodeFrame_of_isExtended p hext, if_pos hread]

theorem decodeFrame_of_selectsXwr (h : selectsXwr raw = true) :
    decodeFrame p raw = checkedLayout p raw decodeXwr := by
  obtain ⟨hext, hread⟩ := Bool.and_eq_true_iff.mp h
  rw [decodeFrame_of_isExtended p hext, if_neg (by simpa using hread)]

theorem decodeFrame_of_selectsLeg (h : selectsLeg raw = true) :
    decodeFrame p raw = checkedLayout p raw decodeLeg := by
  obtain ⟨hext, hlen⟩ := Bool.and_eq_true_iff.mp h
  rw [decodeFrame, if_neg (Nat.not_lt.mpr (of_decide_eq_true hlen)),
    if_pos (takesLegacyLayout_iff.mpr (by simpa using hext)), checkedLayout]

theorem decodeFrame_of_selectsTooshort (h : selectsTooshort raw = true) : decodeFrame p raw = .tooShort :=
  if_pos (selectsTooshort_iff.mp h)

end Decode

/-- Settles O10: DECODE of a frame that selects a row answers what the row does. -/
theorem decodeRowsAgreeWithDecode : Obligations.DecodeRowsAgreeWithDecode := by
  unfold Obligations.DecodeRowsAgreeWithDecode
  intro s n raw hn ext read
  have answers {r : Result} (h : decodeFrame s.params raw = r) : n.answer r = n.ret (decodeFrame s.params raw) :=
    h ▸ n.answer_eq_ret r
  have hdecode : Block.perform s.params (.decode raw raw.length) n = .next (n.ret (decodeFrame s.params raw)) :=
    (if_neg (not_not_intro rfl)).trans (congrArg _ (answers rfl))
  obtain ⟨hxrd, hxrd'⟩ := exec_row (i := .decXrd raw) hn selectsXrd_iff rfl
    (answers <| decodeFrame_of_selectsXrd s.params ·)
  obtain ⟨hxwr, hxwr'⟩ := exec_row (i := .decXwr raw) hn selectsXwr_iff rfl
    (answers <| decodeFrame_of_selectsXwr s.params ·)
  obtain ⟨hleg, hleg'⟩ := exec_row (i := .decLeg raw) hn selectsLeg_iff rfl
    (answers <| decodeFrame_of_selectsLeg s.params ·)
  obtain ⟨hshort, hshort'⟩ := exec_row (i := .decTooshort raw) hn selectsTooshort_iff rfl
    (answers <| decodeFrame_of_selectsTooshort s.params ·)
  exact ⟨decodeFrame s.params raw, exec_next hn hdecode, hxrd, hxwr, hleg, hshort, hxrd', hxwr', hleg',
    fun h => hshort' (Nat.not_lt.mpr h)⟩

/-! ## ENCODE by rows -/

section Encode

variable {p : Params} {t : Telegram}

theorem selectsLegRd_iff : (!t.isExt && t.isRead) = true ↔
    ¬0xFF < t.typeId.toNat ∧ (t.operation = .read ∨ t.operation = .readWithData) := by
  rw [Bool.and_eq_true, Bool.not_eq_true', ← Bool.not_eq_true, isExt_iff, isRead_iff]

theorem selectsLegWr_iff : (!t.isExt && !t.isRead) = true ↔
    ¬0xFF < t.typeId.toNat ∧ ¬(t.operation = .read ∨ t.operation = .readWithData) := by
  rw [Bool.and_eq_true, Bool.not_eq_true', Bool.not_eq_true', ← Bool.not_eq_true, ← Bool.not_eq_true, isExt_iff,
    isRead_iff]

theorem selectsXRd_iff : (t.isExt && t.isRead) = true ↔
    0xFF < t.typeId.toNat ∧ (t.operation = .read ∨ t.operation = .readWithData) := by
  rw [Bool.and_eq_true, isExt_iff, isRead_iff]

theorem selectsXWr_iff : (t.isExt && !t.isRead) = true ↔
    0xFF < t.typeId.toNat ∧ ¬(t.operation = .read ∨ t.operation = .readWithData) := by
  rw [Bool.and_eq_true, Bool.not_eq_true', ← Bool.not_eq_true, isExt_iff, isRead_iff]

theorem frameOf_bodyLegRd (h : (!t.isExt && t.isRead) = true) : frameOf p t (bodyLegRd t) = encodeFrame p t := by
  simp only [Bool.and_eq_true, Bool.not_eq_true'] at h
  simp [encodeFrame, h]

theorem frameOf_bodyLegWr (h : (!t.isExt && !t.isRead) = true) : frameOf p t (bodyLegWr t) = encodeFrame p t := by
  simp only [Bool.and_eq_true, Bool.not_eq_true'] at h
  simp [encodeFrame, h]

theorem frameOf_bodyXRd (h : (t.isExt && t.isRead) = true) : frameOf p t (bodyXRd t) = encodeFrame p t := by
  simp only [Bool.and_eq_true] at h
  simp [encodeFrame, h]

theorem frameOf_bodyXWr (h : (t.isExt && !t.isRead) = true) : frameOf p t (bodyXWr t) = encodeFrame p t := by
  simp only [Bool.and_eq_true, Bool.not_eq_true'] at h
  simp [encodeFrame, h]

end Encode

/-- Settles O12: ENCODE of a telegram that selects a row writes the row's body. -/
theorem encodeRowsAgreeWithEncode : Obligations.EncodeRowsAgreeWithEncode := by
  unfold Obligations.EncodeRowsAgreeWithEncode
  intro s n t hn ext read
  have answers {bs : List Byte} (h : bs = encodeFrame s.params t) :
      n.ret (.bytes bs) = n.ret (.bytes (encodeFrame s.params t)) := h ▸ rfl
  obtain ⟨hlegRd, hlegRd'⟩ := exec_row (i := .encLegRd t) hn selectsLegRd_iff rfl (answers <| frameOf_bodyLegRd ·)
  obtain ⟨hlegWr, hlegWr'⟩ := exec_row (i := .encLegWr t) hn selectsLegWr_iff rfl (answers <| frameOf_bodyLegWr ·)
  obtain ⟨hxRd, hxRd'⟩ := exec_row (i := .encXRd t) hn selectsXRd_iff rfl (answers <| frameOf_bodyXRd ·)
  obtain ⟨hxWr, hxWr'⟩ := exec_row (i := .encXWr t) hn selectsXWr_iff rfl (answers <| frameOf_bodyXWr ·)
  exact ⟨_, exec_next hn rfl, hlegRd, hlegWr, hxRd, hxWr, hlegRd', hlegWr', hxRd', hxWr'⟩

/-! ## Received wire formats -/

theorem execAll_cons {i : Instr} {is : List Instr} {s t : State} (h : exec i s = .next t) :
    execAll (i :: is) s = execAll is t := by
  simp only [execAll, h]

/-- The line events of a frame at the addressed unit: each of its characters, then its break. -/
theorem execAll_arrivals_put (s : State) (bs : List Byte) (n : Block) :
    execAll (arrivals bs) (s.put n) = .next (s.put ((bs.foldl (Block.hearChar s.params) n).hearBreak s.params)) := by
  induction bs generalizing n with
  | nil => exact execAll_cons (exec_put rfl)
  | cons b bs ih => exact (execAll_cons (exec_put rfl)).trans (ih _)

/-- Settles O24: each format has the effect of its line events on a receiver with no character in reception. -/
theorem wireCharacterAndBreak : Obligations.WireCharacterAndBreak := by
  unfold Obligations.WireCharacterAndBreak
  intro s n b c k hn hk
  refine ⟨⟨_, ?_, exec_put rfl⟩, ⟨_, ?_, exec_put rfl⟩, ⟨_, ?_, execAll_arrivals_put s [b] _⟩,
    ⟨_, ?_, execAll_arrivals_put s [b, c] _⟩⟩
  · exact exec_next hn rfl
  · exact exec_next hn (if_neg (Nat.not_le.mpr hk))
  · exact exec_next hn rfl
  · exact exec_next hn rfl

end Sys2Proof.Machine
end

section
/-! PROOF. The CRC-8 of an appended or changed byte, and the CRC unit's operations on the addressed unit. -/

namespace Sys2Proof.Machine

/-! ## The CRC-8 of an appended or changed byte (40_crc R139) -/

section Crc

variable (p : Params)

theorem crc8_append (bs cs : List Byte) : crc8 p (bs ++ cs) = cs.foldl (crc8Step p) (crc8 p bs) :=
  List.foldl_append

/-- An appended byte is one step from the CRC-8 of the bytes before it. -/
theorem crc8_append_singleton (buf : List Byte) (b : Byte) : crc8 p (buf ++ [b]) = crc8Step p (crc8 p buf) b :=
  crc8_append p buf [b]

/-- A difference in the byte of a step is the same difference in its result. -/
theorem crc8Step_xor (acc b d : Byte) : crc8Step p acc (b ^^^ d) = crc8Step p acc b ^^^ d :=
  (BitVec.xor_assoc ..).symm

/-- Steps from one accumulator agree only on one byte, for every table. -/
theorem crc8Step_byte_inj {acc x y : Byte} (h : crc8Step p acc x = crc8Step p acc y) : x = y :=
  (BitVec.xor_right_inj _).mp h

/-- The check of a frame that ends in `c` compares `c` with the CRC-8 of the bytes before it (R137). -/
theorem crcHolds_append_singleton (buf : List Byte) (c : Byte) : crcHolds p (buf ++ [c]) = (c == crc8 p buf) := by
  simp [crcHolds, byteAt, slice]

variable {p} (htable : ∀ a b : Byte, p.crc8Table.get a.toFin = p.crc8Table.get b.toFin → a = b)
include htable

/-- With a permutation table, steps over one byte agree only from one accumulator. -/
theorem crc8Step_acc_inj {a a' b : Byte} (h : crc8Step p a b = crc8Step p a' b) : a = a' :=
  htable a a' ((BitVec.xor_left_inj b).mp h)

/-- With a permutation table, the same bytes lead different accumulators to different results. -/
theorem foldl_crc8Step_acc_inj {bs : List Byte} {a a' : Byte}
    (h : bs.foldl (crc8Step p) a = bs.foldl (crc8Step p) a') : a = a' := by
  induction bs generalizing a a' with
  | nil => exact h
  | cons b bs ih => exact crc8Step_acc_inj htable (ih h)

/-- With a permutation table, the CRC-8 tells apart buffers that differ in one byte. -/
theorem crc8_ne_of_changed_byte (pre post : List Byte) {x y : Byte} (hxy : x ≠ y) :
    crc8 p (pre ++ x :: post) ≠ crc8 p (pre ++ y :: post) := by
  intro h
  rw [crc8_append, crc8_append] at h
  have hstep : crc8Step p (crc8 p pre) x = crc8Step p (crc8 p pre) y := foldl_crc8Step_acc_inj htable h
  exact hxy (crc8Step_byte_inj p hstep)

end Crc

/-! ## The CRC unit on the addressed unit -/

theorem exec_crc8Clr {s : State} {n : Block} (hn : s.here? = some n) :
    exec .crc8Clr s = .next (s.put { n with crcAcc := s.params.crc8Init }) :=
  exec_next hn rfl

/-- CRC8.CHK of a frame that ends in `c` (R137). -/
theorem exec_crc8Chk_append_singleton {s : State} {n : Block} (hn : s.here? = some n) (buf : List Byte) (c : Byte) :
    exec (.crc8Chk (buf ++ [c]) (buf.length + 1)) s = .next (s.put (n.ret (.bool (c == crc8 s.params buf)))) := by
  have hlen : ¬buf.length + 1 ≠ (buf ++ [c]).length := not_not_intro (by simp)
  refine exec_next hn ?_
  rw [Block.perform, Block.crc8Chk, if_neg (Nat.succ_ne_zero _), if_neg hlen, crcHolds_append_singleton]

/-- CRC8.UPD byte by byte runs the steps of the CRC-8 from the accumulator (R134). -/
theorem execAll_crc8Upd_put (s : State) (buf : List Byte) (n : Block) :
    execAll (buf.map .crc8Upd) (s.put n)
      = .next (s.put { n with crcAcc := buf.foldl (crc8Step s.params) n.crcAcc }) := by
  induction buf generalizing n with
  | nil => rfl
  | cons b buf ih => exact (execAll_cons (exec_put rfl)).trans (ih _)

/-! ## The statements -/

/-- Settles O2: after the clear, the accumulator runs the fold that defines the CRC-8. -/
theorem streamingGivesTheBlockCrc : Obligations.StreamingGivesTheBlockCrc := by
  unfold Obligations.StreamingGivesTheBlockCrc
  intro s n hn
  exact ⟨fun b => exec_next hn rfl, fun buf => (execAll_cons (exec_crc8Clr hn)).trans (execAll_crc8Upd_put s buf _)⟩

/-- Settles O4: an appended byte enters the CRC-8 by one exclusive or. -/
theorem crcAppendLaws : Obligations.CrcAppendLaws := by
  unfold Obligations.CrcAppendLaws
  intro p buf
  have hchanged (b d : Byte) : crc8 p (buf ++ [b ^^^ d]) = crc8 p (buf ++ [b]) ^^^ d := by
    simp only [crc8_append_singleton, crc8Step_xor]
  refine ⟨crc8_append_singleton p buf, ?_, fun b d hd => ⟨hchanged b d, ?_⟩⟩
  · rw [crcHolds_append_singleton, beq_self_eq_true]
  · rw [hchanged]
    exact mt xor_left_eq_self_iff.mp hd

/-- Settles O5: with a permutation table the changed frame has another CRC-8, and its last byte is still the old one. -/
theorem oneChangedByteIsDetected : Obligations.OneChangedByteIsDetected := by
  unfold Obligations.OneChangedByteIsDetected
  intro s n pre post x y c hn htable hxy
  have hne := crc8_ne_of_changed_byte htable pre post hxy
  refine ⟨hne, fun hpass => ?_⟩
  rw [crcHolds_append_singleton, beq_iff_eq] at hpass
  have hfail : (c == crc8 s.params (pre ++ y :: post)) = false := beq_false_of_ne (hpass ▸ hne)
  have hlen : pre.length + post.length + 2 = (pre ++ y :: post).length + 1 := by simp [Nat.add_assoc]
  rw [hlen, exec_crc8Chk_append_singleton hn, hfail]
  rfl

/-- Settles O1: both complete in every state, and the read returns what the clear has left. -/
theorem accumulatorClearAndRead : Obligations.AccumulatorClearAndRead := by
  unfold Obligations.AccumulatorClearAndRead
  intro s n hn
  exact ⟨exec_crc8Clr hn, exec_next hn rfl, (execAll_cons (exec_crc8Clr hn)).trans (execAll_cons (exec_put rfl))⟩

/-- Settles O3: the check of a non-empty buffer is by its last byte; without a byte there is none to compare. -/
theorem blockCrcAndCheckResults : Obligations.BlockCrcAndCheckResults := by
  unfold Obligations.BlockCrcAndCheckResults
  intro s n hn
  exact ⟨fun buf => exec_next hn rfl, exec_crc8Chk_append_singleton hn, fun raw => exec_refused hn rfl⟩

end Sys2Proof.Machine
end

section
/-! PROOF. The codec: what DECODE answers for each layout of a frame whose CRC holds, what ENCODE writes, and the
telegrams that come back from their own frame. -/

namespace Sys2Proof.Machine

/-! ## The codec's operations on the addressed unit -/

section Operations

variable {s : State} {n : Block}

/-- DECODE with the buffer's length returns what the frame decodes to (41_codec R150). -/
theorem exec_decode (hn : s.here? = some n) {raw : List Byte} {len : Nat} {r : Result} (hlen : len = raw.length)
    (hr : decodeFrame s.params raw = r) :
    exec (.decode raw len) s = .next (s.put (n.ret r)) := by
  refine exec_next hn ?_
  rw [Block.perform, Block.decode, if_neg (not_not_intro hlen), hr, Block.answer_eq_ret]

/-- Returning different results leaves different states. -/
theorem put_ret_inj {r r' : Result} : s.put (n.ret r) = s.put (n.ret r') ↔ r = r' := by
  refine ⟨fun h => ?_, fun h => h ▸ rfl⟩
  have hunit : some (n.ret r) = some (n.ret r') := by
    have hhere := congrArg State.here? h
    rwa [State.here?_put, State.here?_put] at hhere
  have hout : n.out ++ [.ret r] = n.out ++ [.ret r'] := congrArg Block.out (Option.some.inj hunit)
  simpa using hout

theorem exec_decode_iff (hn : s.here? = some n) {raw : List Byte} {r : Result} :
    exec (.decode raw raw.length) s = .next (s.put (n.ret r)) ↔ decodeFrame s.params raw = r := by
  rw [exec_decode hn rfl rfl, Host.Outcome.next.injEq, put_ret_inj]

end Operations

/-! ## Bytes of the header -/

/-- The read flag of a byte as a bound on it (30_encoding R93). -/
theorem getLsbD_seven_iff (b : Byte) : b.getLsbD 7 = true ↔ 0x80 ≤ b.toNat := readFlag_iff (raw := [0, b])

/-- The operation on decode, with the read flag as a bound on the byte (R101). -/
theorem operationOf_eq (b : Byte) :
    operationOf b = if b = 0x00 then .broadcast else if 0x80 ≤ b.toNat then .read else .write := by
  simp only [operationOf, getLsbD_seven_iff]

/-- The mask leaves exactly the ids of seven bits alone (R100, R101). -/
theorem and_idMask_eq_self_iff (b : Byte) : b &&& Config.idMask = b ↔ b.toNat ≤ 0x7F := by
  have hmask : (b &&& Config.idMask).toNat = b.toNat % 2 ^ 7 := Nat.and_two_pow_sub_one_eq_mod b.toNat 7
  rw [← BitVec.toNat_inj, hmask]
  omega

/-- The mask removes the role bit (R100, R101). -/
theorem or_roleBit_and_idMask (b : Byte) : (b ||| Config.roleBit) &&& Config.idMask = b &&& Config.idMask := by
  have hdisjoint : Config.roleBit &&& Config.idMask = 0 := rfl
  rw [BitVec.and_or_distrib_right, hdisjoint]
  exact BitVec.or_zero

theorem roleBit_le_or_roleBit (b : Byte) : 0x80 ≤ (b ||| Config.roleBit).toNat := by
  rw [BitVec.toNat_or]
  exact Nat.right_le_or

/-! ## DECODE of a frame whose CRC holds -/

section Decode

variable (p : Params) (b0 b1 b2 b3 : Byte) (body : List Byte)

/-- A frame of header and body, with the right CRC (30_encoding R93, R106). -/
abbrev framed : List Byte := [b0, b1, b2, b3] ++ body ++ [crc8 p ([b0, b1, b2, b3] ++ body)]

/-- The telegram with the ids, the operation and the offset of a header (R100, R101, R104). -/
def headed (ty : Half) (data : List Byte) : Telegram :=
  { operation := operationOf b1, sourceId := b0 &&& Config.idMask, destinationId := b1 &&& Config.idMask
    typeId := ty, offset := b3, data := data }

/-- A body that is not empty and that its extended layout does not fit in (41_codec R163). -/
abbrev bodyTooShort : Prop := body ≠ [] ∧ ((0x80 ≤ b1.toNat ∧ body.length < 3) ∨ body.length < 2)

theorem length_framed : (framed p b0 b1 b2 b3 body).length = body.length + 5 := by
  simp

/-- The bytes of a frame between its header and its CRC. -/
theorem slice_framed (k : Nat) :
    slice (framed p b0 b1 b2 b3 body) (k + 4) ((framed p b0 b1 b2 b3 body).length - 1) = body.drop k := by
  rw [slice, ← List.dropLast_eq_take, List.dropLast_concat]
  rfl

/-- A decode row goes on to its own rule. -/
theorem checkedLayout_framed (rule : List Byte → Operation → Byte → Byte → Result) :
    checkedLayout p (framed p b0 b1 b2 b3 body) rule
      = rule (framed p b0 b1 b2 b3 body) (operationOf b1) (b0 &&& Config.idMask) (b1 &&& Config.idMask) := by
  have hcrc : ¬crcHolds p (framed p b0 b1 b2 b3 body) = false := by
    rw [crcHolds_append_singleton, beq_self_eq_true]
    exact nofun
  exact if_neg hcrc

variable {b1 b2 body}

/-- The extended frames are those with a body, and the marker in byte 2 (R99, R112). -/
theorem isExtended_framed_iff :
    (6 ≤ (framed p b0 b1 b2 b3 body).length ∧ (framed p b0 b1 b2 b3 body).getD 2 0 = 0xFF)
      ↔ body ≠ [] ∧ b2 = 0xFF := by
  rw [length_framed, ← List.length_pos_iff, Nat.lt_iff_add_one_le, Nat.add_le_add_iff_right (n := 5) (m := 1)]
  rfl

/-- The legacy layout: byte 2 is not the marker, or there is no payload (R151). -/
theorem decodeFrame_legacy (h : b2 ≠ 0xFF ∨ body = []) :
    decodeFrame p (framed p b0 b1 b2 b3 body) = .telegram (headed b0 b1 b3 (b2.zeroExtend 16) body) := by
  have hsel : selectsLeg (framed p b0 b1 b2 b3 body) = true := by
    rw [selectsLeg_iff, isExtended_framed_iff, length_framed]
    exact ⟨Nat.le_add_left .., fun ⟨hne, hff⟩ => h.elim (· hff) hne⟩
  rw [decodeFrame_of_selectsLeg p hsel, checkedLayout_framed, decodeLeg, slice_framed p b0 b1 b2 b3 body 0]
  rfl

theorem decodeFrame_extended_read (h1 : 0x80 ≤ b1.toNat) (h : body ≠ []) :
    decodeFrame p (framed p b0 b1 0xFF b3 body)
      = decodeXrd (framed p b0 b1 0xFF b3 body) (operationOf b1) (b0 &&& Config.idMask) (b1 &&& Config.idMask) := by
  rw [decodeFrame_of_selectsXrd p (selectsXrd_iff.mpr ⟨(isExtended_framed_iff p b0 b3).mpr ⟨h, rfl⟩, h1⟩),
    checkedLayout_framed]

theorem decodeFrame_extended_write (h1 : ¬0x80 ≤ b1.toNat) (h : body ≠ []) :
    decodeFrame p (framed p b0 b1 0xFF b3 body)
      = decodeXwr (framed p b0 b1 0xFF b3 body) (operationOf b1) (b0 &&& Config.idMask) (b1 &&& Config.idMask) := by
  rw [decodeFrame_of_selectsXwr p (selectsXwr_iff.mpr ⟨(isExtended_framed_iff p b0 b3).mpr ⟨h, rfl⟩, h1⟩),
    checkedLayout_framed]

/-- The extended read: the requested length, then the type (R152). -/
theorem decodeFrame_xrd (h1 : 0x80 ≤ b1.toNat) (req hi lo : Byte) (more : List Byte) :
    decodeFrame p (framed p b0 b1 0xFF b3 (req :: hi :: lo :: more))
      = .telegram (headed b0 b1 b3 (typeword hi lo) [req]) := by
  rw [decodeFrame_extended_read p b0 b3 h1 (List.cons_ne_nil _ _), decodeXrd, length_framed,
    if_neg (by simp only [List.length_cons]; omega)]
  rfl

/-- The extended write or broadcast: the type, then the payload (R153). -/
theorem decodeFrame_xwr (h1 : ¬0x80 ≤ b1.toNat) (hi lo : Byte) (data : List Byte) :
    decodeFrame p (framed p b0 b1 0xFF b3 (hi :: lo :: data))
      = .telegram (headed b0 b1 b3 (typeword hi lo) data) := by
  rw [decodeFrame_extended_write p b0 b3 h1 (List.cons_ne_nil _ _), decodeXwr,
    slice_framed p b0 b1 0xFF b3 (hi :: lo :: data) 2, length_framed, if_neg (by simp only [List.length_cons]; omega)]
  rfl

/-- An extended frame that ends before its layout does (R163). -/
theorem decodeFrame_bodyTooShort (h : bodyTooShort b1 body) :
    decodeFrame p (framed p b0 b1 0xFF b3 body) = .tooShort := by
  obtain ⟨hne, hshort⟩ := h
  by_cases h1 : 0x80 ≤ b1.toNat
  · rw [decodeFrame_extended_read p b0 b3 h1 hne, decodeXrd, length_framed, if_pos (by omega)]
  · rw [decodeFrame_extended_write p b0 b3 h1 hne, decodeXwr, length_framed, if_pos (by omega)]

variable (b1 b2 body)

/-- Every frame with a right CRC: legacy, too short for its layout, or an extended frame of which the type takes two
bytes at least. -/
theorem decodeFrame_framed_cases :
    (decodeFrame p (framed p b0 b1 b2 b3 body) = .telegram (headed b0 b1 b3 (b2.zeroExtend 16) body)
        ∧ (b2 ≠ 0xFF ∨ body = []))
      ∨ (decodeFrame p (framed p b0 b1 b2 b3 body) = .tooShort ∧ b2 = 0xFF ∧ bodyTooShort b1 body)
      ∨ ∃ ty data, decodeFrame p (framed p b0 b1 b2 b3 body) = .telegram (headed b0 b1 b3 ty data)
        ∧ data.length + 2 ≤ body.length := by
  by_cases hleg : b2 ≠ 0xFF ∨ body = []
  · exact .inl ⟨decodeFrame_legacy p b0 b3 hleg, hleg⟩
  obtain ⟨h2, hne⟩ := not_or.mp hleg
  obtain rfl : b2 = 0xFF := not_not.mp h2
  by_cases hshort : bodyTooShort b1 body
  · exact .inr (.inl ⟨decodeFrame_bodyTooShort p b0 b3 hshort, rfl, hshort⟩)
  refine .inr (.inr ?_)
  by_cases h1 : 0x80 ≤ b1.toNat
  · match body with
    | req :: hi :: lo :: more => exact ⟨_, _, decodeFrame_xrd p b0 b3 h1 req hi lo more, by simp⟩
    | [] | [_] | [_, _] => exact absurd ⟨hne, by simp [h1]⟩ hshort
  · match body with
    | hi :: lo :: data => exact ⟨_, _, decodeFrame_xwr p b0 b3 h1 hi lo data, Nat.le_refl _⟩
    | [] | [_] => exact absurd ⟨hne, by simp⟩ hshort

/-- A telegram that DECODE answers has the header of its frame, and the body as its payload unless the type has taken
two bytes of it. -/
theorem exists_headed_of_decodeFrame {t : Telegram}
    (h : decodeFrame p (framed p b0 b1 b2 b3 body) = .telegram t) :
    ∃ ty data, headed b0 b1 b3 ty data = t ∧ ((b2 ≠ 0xFF ∨ body = []) ∨ data.length + 2 ≤ body.length) := by
  obtain ⟨h', hleg⟩ | ⟨h', -⟩ | ⟨ty, data, h', hlen⟩ := decodeFrame_framed_cases p b0 b1 b2 b3 body
  · exact ⟨_, _, Result.telegram.inj (h'.symm.trans h), .inl hleg⟩
  · cases h.symm.trans h'
  · exact ⟨_, _, Result.telegram.inj (h'.symm.trans h), .inr hlen⟩

end Decode

/-- A wrong CRC is reported before the layout is looked at (41_codec R163, 60_exceptions R277 (d)). -/
theorem decodeFrame_of_crc_wrong {p : Params} {buf : List Byte} {c : Byte} (hlen : 4 ≤ buf.length)
    (hc : c ≠ crc8 p buf) : decodeFrame p (buf ++ [c]) = .checksumError := by
  have hlen' : ¬(buf ++ [c]).length < 5 := by
    rw [List.length_append, List.length_singleton]
    omega
  rw [decodeFrame, if_neg hlen', if_pos (by rw [crcHolds_append_singleton, beq_eq_false_iff_ne]; exact hc)]

/-! ## The statements about DECODE -/

/-- Settles O6: the legacy layout, its body the payload. -/
theorem decodeLegacyFrame : Obligations.DecodeLegacyFrame := by
  unfold Obligations.DecodeLegacyFrame
  intro s n b0 b1 b2 b3 data hn h
  rw [← operationOf_eq, BitVec.ofNat_toNat]
  exact exec_decode hn (length_framed ..).symm (decodeFrame_legacy s.params b0 b3 h)

/-- Settles O7: with three bytes or more the body holds the requested length and the type, with fewer it is too
short. -/
theorem decodeExtendedRead : Obligations.DecodeExtendedRead := by
  unfold Obligations.DecodeExtendedRead
  intro s n b0 b1 b3 hn h1
  have hop : operationOf b1 = .read := by
    rw [operationOf_eq, if_neg (by rintro rfl; exact absurd h1 (by decide)), if_pos h1]
  refine ⟨fun req hi lo more => ?_, fun body hbody => ?_⟩
  · rw [← hop]
    exact exec_decode hn (length_framed s.params b0 b1 0xFF b3 (req :: hi :: lo :: more)).symm
      (decodeFrame_xrd s.params b0 b3 h1 req hi lo more)
  · have hshort : bodyTooShort b1 body := ⟨List.ne_nil_of_length_pos (by omega), .inl ⟨h1, by omega⟩⟩
    exact exec_decode hn (length_framed ..).symm (decodeFrame_bodyTooShort s.params b0 b3 hshort)

/-- Settles O8: with two bytes or more the body holds the type and the payload, with one it is too short. -/
theorem decodeExtendedWrite : Obligations.DecodeExtendedWrite := by
  unfold Obligations.DecodeExtendedWrite
  intro s n b0 b1 b3 hn h1
  have hop : operationOf b1 = if b1 = 0x00 then .broadcast else .write := by
    rw [operationOf_eq, if_neg (Nat.not_le.mpr h1)]
  have hdst : b1 &&& Config.idMask = b1 := (and_idMask_eq_self_iff b1).mpr (Nat.le_of_lt_succ h1)
  refine ⟨fun hi lo data => ?_, fun body => ?_⟩
  · have hdecode := decodeFrame_xwr s.params b0 b3 (Nat.not_le.mpr h1) hi lo data
    rw [headed, hop, hdst] at hdecode
    exact exec_decode hn (length_framed s.params b0 b1 0xFF b3 (hi :: lo :: data)).symm hdecode
  · have hshort : bodyTooShort b1 [body] := ⟨List.cons_ne_nil _ _, .inr (Nat.lt_succ_self 1)⟩
    exact exec_decode hn rfl (decodeFrame_bodyTooShort s.params b0 b3 hshort)

/-- Settles O9: the length for header and CRC, then the CRC, then the length for the layout. -/
theorem decodeFailureOrder : Obligations.DecodeFailureOrder := by
  unfold Obligations.DecodeFailureOrder
  intro s n hn
  refine ⟨fun raw h => exec_decode hn rfl (if_pos h), fun buf hbuf => ?_⟩
  match buf, hbuf with
  | b0 :: b1 :: b2 :: b3 :: body, hbuf =>
    intro short frame
    have hlen : (b0 :: b1 :: b2 :: b3 :: body).length + 1 = frame.length := by simp [frame]
    have hshort : short ↔ b2 = 0xFF ∧ bodyTooShort b1 body := by
      simp only [short, bodyTooShort, List.length_cons, List.getD_cons_succ, List.getD_cons_zero,
        ← List.length_pos_iff]
      refine and_left_comm.trans (and_congr_right fun _ => ?_)
      omega
    refine ⟨fun c hc => exec_decode hn (by simp) (decodeFrame_of_crc_wrong hbuf hc), fun h => ?_, fun h => ?_⟩
    · obtain ⟨rfl, hbody⟩ := hshort.mp h
      exact exec_decode hn hlen (decodeFrame_bodyTooShort s.params b0 b3 hbody)
    · obtain ⟨h', -⟩ | ⟨-, hff, hbody⟩ | ⟨ty, data, h', -⟩ :=
        decodeFrame_framed_cases s.params b0 b1 b2 b3 body
      · exact ⟨_, exec_decode hn hlen h'⟩
      · exact absurd (hshort.mpr ⟨hff, hbody⟩) h
      · exact ⟨_, exec_decode hn hlen h'⟩

/-! ## ENCODE and the way back -/

section Encode

variable (p : Params) {t : Telegram}

/-- The operations that fit their destination, (b) of R160: a broadcast to the broadcast id, a write or a read to any
other. -/
abbrev operationFits (t : Telegram) : Prop :=
  (t.operation = .write ∧ t.destinationId ≠ 0) ∨ (t.operation = .broadcast ∧ t.destinationId = 0)
    ∨ (t.operation = .read ∧ t.destinationId ≠ 0)

/-- The body of the layout a telegram selects (41_codec R155 to R158). -/
def encodedBody (t : Telegram) : List Byte :=
  if t.isExt then (if t.isRead then bodyXRd t else bodyXWr t) else (if t.isRead then bodyLegRd t else bodyLegWr t)

/-- ENCODE writes a frame with the right CRC (R154). -/
theorem encodeFrame_eq_framed (t : Telegram) : encodeFrame p t
    = framed p (sourceByte t) (destinationByte t) (typeByte t) t.offset (encodedBody t) := rfl

/-- A type of the marker's value selects a legacy layout (30_encoding R109). -/
theorem encodedBody_of_typeId_eq (h : t.typeId = 0x00FF) :
    encodedBody t = if t.isRead then [reqlen t] else t.data := by
  have hext : ¬t.isExt = true := by simp [isExt_iff, h]
  exact if_neg hext

theorem typeByte_of_typeId_eq (h : t.typeId = 0x00FF) : typeByte t = 0xFF := by
  have hext : ¬t.isExt = true := by simp [isExt_iff, h]
  rw [typeByte, if_neg hext, h]
  rfl

theorem length_encodedBody_le (h : t.typeId = 0x00FF) : (encodedBody t).length ≤ t.data.length + 1 := by
  rw [encodedBody_of_typeId_eq h]
  split
  · exact Nat.le_add_left ..
  · exact Nat.le_succ _

theorem reqlen_eq_headD (t : Telegram) : reqlen t = t.data.headD 0 := by
  unfold reqlen
  split <;> simp [*]

/-- A legacy type comes back from its byte (30_encoding R102). -/
theorem zeroExtend_typeLo {ty : Half} (h : ty.toNat ≤ 0xFF) : (typeLo ty).zeroExtend 16 = ty := by
  apply BitVec.eq_of_toNat_eq
  simp only [typeLo, BitVec.toNat_setWidth, BitVec.toNat_ofNat]
  omega

/-- An extended type comes back from its two bytes (R103). -/
theorem typeword_typeHi_typeLo {ty : Half} (h : 0xFF < ty.toNat) : typeword (typeHi ty) (typeLo ty) = ty := by
  have hlt := ty.isLt
  apply BitVec.eq_of_toNat_eq
  simp only [typeword, typeHi, typeLo, Config.extTypeBias, BitVec.toNat_ofNat]
  omega

theorem sourceByte_and_idMask (t : Telegram) : sourceByte t &&& Config.idMask = t.sourceId &&& Config.idMask :=
  or_roleBit_and_idMask t.sourceId

theorem destinationByte_and_idMask (t : Telegram) :
    destinationByte t &&& Config.idMask = t.destinationId &&& Config.idMask := by
  unfold destinationByte
  split
  · exact or_roleBit_and_idMask t.destinationId
  · rfl

/-- With an id of seven bits, the read flag on the wire is set for a read from any but the broadcast id (R101). -/
theorem readFlag_destinationByte_iff (h : t.destinationId.toNat ≤ 0x7F) :
    0x80 ≤ (destinationByte t).toNat ↔ t.isRead = true ∧ t.destinationId ≠ 0 := by
  unfold destinationByte
  split
  · exact iff_of_true (roleBit_le_or_roleBit _) ‹_›
  · exact iff_of_false (by omega) ‹_›

/-- With an id of seven bits, the operation that is read back from byte 1 (R101). -/
theorem operationOf_destinationByte (h : t.destinationId.toNat ≤ 0x7F) :
    operationOf (destinationByte t)
      = if t.destinationId = 0 then .broadcast else if t.isRead then .read else .write := by
  have hmask := destinationByte_and_idMask t
  rw [(and_idMask_eq_self_iff _).mpr h] at hmask
  rw [operationOf_eq]
  simp only [readFlag_destinationByte_iff h]
  by_cases h0 : t.destinationId = 0
  · have hzero : destinationByte t = 0 := (if_neg (not_and_not_right.mpr fun _ => h0)).trans h0
    rw [if_pos hzero, if_pos h0]
  · have hne : destinationByte t ≠ 0 := fun hzero => h0 (hmask.symm.trans (hzero.symm ▸ rfl))
    rw [if_neg hne, if_neg h0]
    simp only [h0, ne_eq, not_false_eq_true, and_true]

/-- With an id of seven bits, exactly the operations that fit their destination come back. -/
theorem operationOf_destinationByte_eq_iff (h : t.destinationId.toNat ≤ 0x7F) :
    operationOf (destinationByte t) = t.operation ↔ operationFits t := by
  rw [operationOf_destinationByte h, operationFits]
  by_cases h0 : t.destinationId = 0
  · simp only [h0, if_true, ne_eq, not_true, and_false, and_true, or_false, false_or]
    exact eq_comm
  · have hop : (if t.isRead then .read else .write) = t.operation ↔ t.operation = .write ∨ t.operation = .read := by
      rw [Telegram.isRead]
      cases t.operation <;> simp
    simp only [h0, if_false, hop, ne_eq, not_false_eq_true, and_false, and_true, false_or]

theorem destinationId_ne_zero_of_isRead (hb : operationFits t) (hr : t.isRead = true) : t.destinationId ≠ 0 := by
  obtain ⟨-, h⟩ | ⟨hop, -⟩ | ⟨-, h⟩ := hb
  · exact h
  · simp [isRead_iff, hop] at hr
  · exact h

/-- The payloads that come back, (c) of R160: a read carries just its requested length. -/
theorem payload_eq_data_iff (he : t.operation ≠ .readWithData) :
    (if t.isRead then [reqlen t] else t.data) = t.data ↔ (t.operation = .read → t.data.length = 1) := by
  have hone : [reqlen t] = t.data ↔ t.data.length = 1 := by
    rw [reqlen_eq_headD]
    cases t.data with
    | nil => exact iff_of_false nofun nofun
    | cons b bs => simp
  rw [← hone, Telegram.isRead]
  cases h : t.operation with
  | read => simp
  | readWithData => exact absurd h he
  | write | broadcast => simp

/-- Header, type and payload come back when each of them does. -/
theorem headed_eq_iff {ty : Half} {data : List Byte} :
    headed (sourceByte t) (destinationByte t) t.offset ty data = t ↔
      (operationOf (destinationByte t) = t.operation ∧ t.sourceId.toNat ≤ 0x7F ∧ t.destinationId.toNat ≤ 0x7F)
        ∧ ty = t.typeId ∧ data = t.data := by
  rw [← and_idMask_eq_self_iff, ← and_idMask_eq_self_iff, ← sourceByte_and_idMask, ← destinationByte_and_idMask]
  cases t
  simp only [headed, Telegram.mk.injEq, true_and, and_assoc]

/-- The types and payloads that come back, (d) of R160: the type is not the marker's, or there is no body. -/
theorem typeId_ne_or_encodedBody_iff :
    t.typeId ≠ 0x00FF ∨ encodedBody t = [] ↔
      t.typeId ≠ 0x00FF ∨ ((t.operation = .write ∨ t.operation = .broadcast) ∧ t.data = []) := by
  refine or_congr_right' fun h => ?_
  rw [encodedBody_of_typeId_eq (not_not.mp h), Telegram.isRead]
  cases t.operation <;> simp

/-- With the ids of seven bits, reads from any but the broadcast id, and (d) of R160, type and payload come back, a read
with its requested length for a payload. -/
theorem decodeFrame_encodeFrame (hdst : t.destinationId.toNat ≤ 0x7F)
    (hread : t.isRead = true → t.destinationId ≠ 0) (htype : t.typeId ≠ 0x00FF ∨ encodedBody t = []) :
    decodeFrame p (encodeFrame p t) = .telegram (headed (sourceByte t) (destinationByte t) t.offset t.typeId
      (if t.isRead then [reqlen t] else t.data)) := by
  have hflag := readFlag_destinationByte_iff hdst
  rw [encodeFrame_eq_framed]
  by_cases hext : t.isExt = true
  · have hff : typeByte t = 0xFF := if_pos hext
    have hty := typeword_typeHi_typeLo (isExt_iff.mp hext)
    by_cases hr : t.isRead = true
    · have hbody : encodedBody t = bodyXRd t := (if_pos hext).trans (if_pos hr)
      rw [hff, hbody, if_pos hr, bodyXRd, decodeFrame_xrd p _ _ (hflag.mpr ⟨hr, hread hr⟩), hty]
    · have hbody : encodedBody t = bodyXWr t := (if_pos hext).trans (if_neg hr)
      rw [hff, hbody, if_neg hr]
      exact hty ▸ decodeFrame_xwr p _ _ (fun h => hr (hflag.mp h).1) ..
  · have hlo : typeByte t = typeLo t.typeId := if_neg hext
    have hbody : encodedBody t = if t.isRead then [reqlen t] else t.data := if_neg hext
    have hty := zeroExtend_typeLo (Nat.not_lt.mp (isExt_iff.not.mp hext))
    have hleg : typeLo t.typeId ≠ 0xFF ∨ encodedBody t = [] :=
      htype.imp_left fun hne hff => hne (hty.symm.trans (hff ▸ rfl))
    rw [hlo, decodeFrame_legacy p _ _ hleg, hty, hbody]

/-- A telegram comes back from its frame exactly on the domain of R160. -/
theorem decodeFrame_encodeFrame_eq_self_iff : decodeFrame p (encodeFrame p t) = .telegram t ↔ t.roundTrips := by
  constructor
  · intro h
    rw [encodeFrame_eq_framed] at h
    obtain ⟨ty, data, hheaded, hbody⟩ := exists_headed_of_decodeFrame p _ _ _ _ _ h
    obtain ⟨⟨hop, hsrc, hdst⟩, -, rfl⟩ := headed_eq_iff.mp hheaded
    have hb := (operationOf_destinationByte_eq_iff hdst).mp hop
    have he : t.operation ≠ .readWithData := by
      obtain ⟨hop', -⟩ | ⟨hop', -⟩ | ⟨hop', -⟩ := hb <;> simp [hop']
    have htype : t.typeId ≠ 0x00FF ∨ encodedBody t = [] := by
      refine or_iff_not_imp_left.mpr fun hff => ?_
      rw [not_not] at hff
      have hshort := length_encodedBody_le hff
      obtain (hmarker | hnil) | hlen := hbody
      · exact absurd (typeByte_of_typeId_eq hff) hmarker
      · exact hnil
      · omega
    have hself := decodeFrame_encodeFrame p hdst (destinationId_ne_zero_of_isRead hb) htype
    obtain ⟨-, -, hdata⟩ := headed_eq_iff.mp (Result.telegram.inj (hself.symm.trans h))
    exact ⟨⟨hsrc, hdst⟩, hb, (payload_eq_data_iff he).mp hdata, typeId_ne_or_encodedBody_iff.mp htype, he⟩
  · rintro ⟨⟨hsrc, hdst⟩, hb, hc, hd, he⟩
    rw [decodeFrame_encodeFrame p hdst (destinationId_ne_zero_of_isRead hb) (typeId_ne_or_encodedBody_iff.mpr hd),
      headed_eq_iff.mpr ⟨⟨(operationOf_destinationByte_eq_iff hdst).mpr hb, hsrc, hdst⟩, rfl,
        (payload_eq_data_iff he).mpr hc⟩]

/-- The wire carries of a read no more than the requested length, and not which of the two reads it is (R155, R157). -/
theorem encodeFrame_of_isRead (h : t.isRead = true) :
    encodeFrame p t = encodeFrame p { t with operation := .read, data := [t.data.headD 0] } := by
  rw [← reqlen_eq_headD, encodeFrame_eq_framed, encodeFrame_eq_framed]
  have hdst : destinationByte t = destinationByte { t with operation := .read, data := [reqlen t] } := by
    unfold destinationByte
    rw [h]
    rfl
  have hbody : encodedBody t = encodedBody { t with operation := .read, data := [reqlen t] } := by
    unfold encodedBody
    rw [h]
    rfl
  rw [hdst, hbody]
  rfl

end Encode

/-! ## The statements about ENCODE and CLASSIFY -/

/-- Settles O13: header, type and payload each come back exactly under their clauses of R160, and a read is on the wire
as the read of its requested length. -/
theorem telegramRoundTrip : Obligations.TelegramRoundTrip := by
  unfold Obligations.TelegramRoundTrip
  intro s n t hn
  refine ⟨(exec_decode_iff hn).trans (decodeFrame_encodeFrame_eq_self_iff s.params), ?_⟩
  intro hsrc hdst h0 htype hop
  rw [encodeFrame_of_isRead s.params (isRead_iff.mpr hop)]
  refine (exec_decode_iff hn).mpr ((decodeFrame_encodeFrame_eq_self_iff s.params).mpr ?_)
  exact ⟨⟨hsrc, hdst⟩, .inr (.inr ⟨rfl, h0⟩), fun _ => rfl, .inl htype, nofun⟩

/-- Settles O11: the header bytes, the body and the CRC as ENCODE writes them. -/
theorem encodeFrameLayouts : Obligations.EncodeFrameLayouts := by
  unfold Obligations.EncodeFrameLayouts
  intro s n op src dst off ty data hn t isRead b1 lo hi body f
  have hread : t.isRead = true ↔ isRead := isRead_iff
  have hext : t.isExt = true ↔ 0xFF < ty.toNat := isExt_iff
  have hb1 : b1 = destinationByte t := by simp only [b1, destinationByte, hread]; rfl
  have hbody : body = encodedBody t := by
    simp only [body, encodedBody, hread, hext, bodyXRd, bodyLegRd, reqlen_eq_headD]
    rfl
  have hf : f = [sourceByte t, destinationByte t, typeByte t, off] ++ encodedBody t := by
    simp only [f, hb1, hbody, typeByte, hext]
    rfl
  rw [hf]
  exact exec_next hn rfl

/-- Settles O14: the lengths of a poll are one and two. -/
theorem classifyByLength : Obligations.ClassifyByLength := by
  unfold Obligations.ClassifyByLength
  intro s n len hn
  have hpoll : Config.pollMinLen ≤ len ∧ len ≤ Config.pollMaxLen ↔ len = 1 ∨ len = 2 := by
    rw [Config.pollMinLen, Config.pollMaxLen]
    omega
  simp only [← hpoll]
  exact exec_next hn rfl

end Sys2Proof.Machine
end

section
/-! PROOF. What the field extractor answers: its result by where a field lies in the payload, and the numbers a field
spells. -/

namespace Sys2Proof.Machine

/-! ## Parts of a payload -/

theorem slice_append (pre field post : List Byte) :
    slice (pre ++ field ++ post) pre.length (pre.length + field.length) = field := by
  rw [slice, ← List.length_append, List.take_left, List.drop_left]

theorem slice_self (raw : List Byte) (k : Nat) : slice raw k k = [] :=
  List.drop_eq_nil_of_le (List.length_take_le ..)

/-- A part of a payload begins with the byte at its first index. -/
theorem slice_add_succ {raw : List Byte} {k : Nat} (w : Nat) (h : k < raw.length) :
    slice raw k (k + (w + 1)) = byteAt raw k :: slice raw (k + 1) (k + 1 + w) := by
  have hk : k < (raw.take (k + (w + 1))).length := by rw [List.length_take]; omega
  rw [slice, List.drop_eq_getElem_cons hk, List.getElem_take, byteAt, List.getD_eq_getElem _ _ h, slice,
    Nat.add_right_comm k 1 w, Nat.add_assoc k w 1]

theorem slice_three {raw : List Byte} {k : Nat} (h : k + 3 ≤ raw.length) :
    slice raw k (k + 3) = [byteAt raw k, byteAt raw (k + 1), byteAt raw (k + 2)] := by
  rw [slice_add_succ 2 (by omega), slice_add_succ 1 (by omega), slice_add_succ 0 (by omega), Nat.add_zero, slice_self]

/-- Bit `p` of a byte that the payload has, as a digit of the byte's value (42_fields R184). -/
theorem getLsbD_byteAt {raw : List Byte} {k : Nat} (h : k < raw.length) (p : Nat) :
    (byteAt raw k).getLsbD p = decide (raw[k].toNat / 2 ^ p % 2 = 1) := by
  rw [byteAt, List.getD_eq_getElem _ _ h, BitVec.getLsbD, Nat.testBit_eq_decide_div_mod_eq]

/-! ## Big-endian numbers (20_memory R61) -/

theorem bigEndian_append_singleton (bs : List Byte) (b : Byte) : bigEndian (bs ++ [b]) = bigEndian bs * 256 + b.toNat :=
  List.foldl_append

/-- A number of `w` bytes has `8 * w` bits. -/
theorem bigEndian_lt (bs : List Byte) : bigEndian bs < 2 ^ (8 * bs.length) := by
  induction bs using List.reverseRecOn with
  | nil => decide
  | append_singleton bs b ih =>
    rw [bigEndian_append_singleton, List.length_append, List.length_singleton, Nat.mul_add, Nat.pow_add]
    have hb := b.isLt
    omega

/-- Three bytes spell the 24-bit vector that their bits make up, one after the other. -/
theorem bigEndian_three (a b c : Byte) : bigEndian [a, b, c] = (a ++ b ++ c).toNat := by
  rw [BitVec.toNat_append, BitVec.toNat_append, ← Nat.shiftLeft_add_eq_or_of_lt b.isLt,
    ← Nat.shiftLeft_add_eq_or_of_lt c.isLt, Nat.shiftLeft_eq, Nat.shiftLeft_eq]
  simp [bigEndian]

/-! ## Sign extension -/

/-- A number of `w` bytes, sign extended from its top bit, has its two's complement value at that width (R182). -/
theorem toInt_signExtended {u : Quad} {w : Nat} (hw1 : 1 ≤ w) (hw4 : w ≤ 4) (hu : u.toNat < 2 ^ (8 * w)) :
    (signExtended u w).toInt =
      if u.toNat < 2 ^ (8 * w - 1) then (u.toNat : Int) else (u.toNat : Int) - 2 ^ (8 * w) := by
  have hhalf : 2 * u.toNat < 2 ^ (8 * w) ↔ u.toNat < 2 ^ (8 * w - 1) := by
    have hpow : 2 ^ (8 * w) = 2 * 2 ^ (8 * w - 1) := by rw [← Nat.pow_succ']; congr 1; omega
    omega
  have htrunc : (u.truncate (8 * w)).toNat = u.toNat := by rw [BitVec.toNat_setWidth, Nat.mod_eq_of_lt hu]
  rw [signExtended, BitVec.toInt_signExtend_of_le (by omega), BitVec.toInt_eq_toNat_cond, htrunc]
  simp only [hhalf, Nat.cast_pow, Nat.cast_ofNat]

/-- R183 extends the sign of a 24-bit number by setting the bits above it when its top bit is set. -/
theorem signExtend_of_24 (x : BitVec 24) :
    x.signExtend 32 = if x.getLsbD 23 then x.setWidth 32 ||| 0xFF000000 else x.setWidth 32 := by
  have hmask : ∀ i < 32, (0xFF000000 : Quad).getLsbD i = decide (24 ≤ i) := by decide
  have hmsb : x.msb = x.getLsbD 23 := BitVec.msb_eq_getLsbD_last x
  split
  next h =>
    refine BitVec.eq_of_getLsbD_eq fun i hi => ?_
    rw [BitVec.getLsbD_signExtend, BitVec.getLsbD_or, BitVec.getLsbD_setWidth, hmask i hi, hmsb, h]
    by_cases hlow : i < 24
    · simp [hi, hlow]
    · simp [hi, hlow, Nat.not_lt.mp hlow]
  next h => exact BitVec.signExtend_eq_setWidth_of_msb_false (hmsb.trans (Bool.eq_false_of_not_eq_true h))

/-- Appending a byte shifts what stands before it. -/
theorem setWidth_append_byte {m : Nat} (x : BitVec m) (b : Byte) :
    (x ++ b).setWidth 32 = x.setWidth 32 <<< 8 ||| b.setWidth 32 := by
  refine BitVec.eq_of_getLsbD_eq fun i hi => ?_
  have hshift : i - 8 < 32 := by omega
  rw [BitVec.getLsbD_or, BitVec.getLsbD_shiftLeft]
  simp only [BitVec.getLsbD_setWidth, BitVec.getLsbD_append, hi, hshift, decide_true, Bool.true_and]
  by_cases hb : i < 8
  · simp [hb]
  · simp [hb, b.getLsbD_of_ge i (Nat.not_lt.mp hb)]

/-- R183 puts three bytes together by shifts. -/
theorem or_shiftLeft_eq_append (a b c : Byte) :
    (a.zeroExtend 32 <<< 16 ||| b.zeroExtend 32 <<< 8 ||| c.zeroExtend 32 : Quad) = (a ++ b ++ c).setWidth 32 := by
  rw [setWidth_append_byte, setWidth_append_byte, BitVec.shiftLeft_or_distrib, ← BitVec.shiftLeft_add]

/-! ## The place of a field (R180) -/

section Located

variable {t : Telegram} {pos w k : Nat}

theorem locate_eq_some_iff : locate t pos w = some k ↔ t.offset.toNat + k = pos ∧ k + w ≤ t.data.length := by
  unfold locate
  split
  · simp; omega
  · split <;> simp <;> omega

theorem locate_of_data_eq {pre field post : List Byte} (h : t.data = pre ++ field ++ post) :
    locate t (t.offset.toNat + pre.length) field.length = some pre.length :=
  locate_eq_some_iff.mpr ⟨rfl, by simp only [h, List.length_append]; omega⟩

/-- The answer for a field that has a place in the payload. -/
theorem Block.field_of_locate_eq_some (h : locate t pos w = some k) (n : Block) (value : Nat → Result) :
    n.field t pos w value = n.ret (value k) := by
  simp only [Block.field, h]

/-- The answer by where the field lies (R180, R185). -/
theorem Block.field_eq_ite (n : Block) (t : Telegram) (pos w : Nat) (value : Nat → Result) :
    n.field t pos w value = n.ret
      (if t.offset.toNat ≤ pos ∧ pos + w ≤ t.offset.toNat + t.data.length then value (pos - t.offset.toNat)
       else .absent) := by
  split
  · exact n.field_of_locate_eq_some (locate_eq_some_iff.mpr (by omega)) value
  · exact n.field_of_locate_eq_none (locate_eq_none_iff.mpr (by omega)) value

/-- The answer depends on the value only at the field's place. -/
theorem Block.field_congr {value value' : Nat → Result} (h : ∀ k, locate t pos w = some k → value k = value' k)
    (n : Block) : n.field t pos w value = n.field t pos w value' := by
  cases hk : locate t pos w with
  | none => rw [n.field_of_locate_eq_none hk, n.field_of_locate_eq_none hk]
  | some k => rw [Block.field_of_locate_eq_some hk, Block.field_of_locate_eq_some hk, h k hk]

/-- The value of a field of at most four bytes is the number they spell (R181). -/
theorem toNat_unsignedAt {pre field post : List Byte} (h : t.data = pre ++ field ++ post) (h4 : field.length ≤ 4) :
    (unsignedAt t pre.length field.length).toNat = bigEndian field := by
  have hlt : bigEndian field < 2 ^ 32 :=
    (bigEndian_lt field).trans_le (Nat.pow_le_pow_right (by decide) (by omega))
  rw [unsignedAt, h, slice_append, BitVec.toNat_ofNat, Nat.mod_eq_of_lt hlt]

/-- R183's value is R182's at width 3: both extend the 24-bit number of the three bytes. -/
theorem signed24At_eq_signExtended (h : k + 3 ≤ t.data.length) :
    signed24At t k = signExtended (unsignedAt t k 3) 3 := by
  generalize hx : byteAt t.data k ++ byteAt t.data (k + 1) ++ byteAt t.data (k + 2) = x
  have hu : unsignedAt t k 3 = x.setWidth 32 := by
    rw [unsignedAt, slice_three h, bigEndian_three, hx, BitVec.ofNat_toNat]
  have hbit : (x.setWidth 32).getLsbD 23 = x.getLsbD 23 := BitVec.getLsbD_setWidth ..
  have htrunc : (x.setWidth 32).truncate (8 * 3) = x :=
    (BitVec.setWidth_setWidth_of_le x (by decide)).trans x.setWidth_eq
  rw [signed24At, or_shiftLeft_eq_append, hx, hbit, hu, signExtended, htrunc, signExtend_of_24]

theorem Block.fxS24_eq_fxS (t : Telegram) (pos : Nat) : Block.fxS24 t pos = Block.fxS t pos 3 := by
  funext n
  rw [Block.fxS24, Block.fxS, if_neg (by decide)]
  refine congrArg _ (Block.field_congr (fun k hk => ?_) n)
  rw [signed24At_eq_signExtended (locate_eq_some_iff.mp hk).2]

end Located

/-! ## FX.U and FX.S on the addressed unit -/

section Operations

variable {s : State} {n : Block} {t : Telegram} {pos w k : Nat}

theorem exec_fxU (hn : s.here? = some n) (hw1 : 1 ≤ w) (hw4 : w ≤ 4) (h : locate t pos w = some k) :
    exec (.fxU t pos w) s = .next (s.put (n.ret (.unsigned (unsignedAt t k w)))) := by
  refine exec_next hn ?_
  rw [Block.perform, Block.fxU, if_neg (by omega), Block.field_of_locate_eq_some h]

theorem exec_fxS (hn : s.here? = some n) (hw1 : 1 ≤ w) (hw4 : w ≤ 4) (h : locate t pos w = some k) :
    exec (.fxS t pos w) s = .next (s.put (n.ret (.signed (signExtended (unsignedAt t k w) w)))) := by
  refine exec_next hn ?_
  rw [Block.perform, Block.fxS, if_neg (by omega), Block.field_of_locate_eq_some h]

end Operations

/-! ## The statements about field extraction -/

/-- Settles O16: the value at the field's place is the number its bytes spell, written out per width. -/
theorem unsignedField : Obligations.UnsignedField := by
  unfold Obligations.UnsignedField
  intro s n t pre field post hn hdata hw1 hw4
  refine ⟨_, exec_fxU hn hw1 hw4 (locate_of_data_eq hdata), ?_⟩
  rw [toNat_unsignedAt hdata hw4]
  refine ⟨fun a h => ?_, fun a b h => ?_, fun a b c h => ?_, fun a b c d h => ?_⟩ <;>
  · simp only [h, bigEndian, List.foldl]
    omega

/-- Settles O17: the number of the field's bytes fits its width, so extending its sign gives its two's complement
value. -/
theorem signedField : Obligations.SignedField := by
  unfold Obligations.SignedField
  intro s n t pre field post hn hdata hw1 hw4
  have hlocate := locate_of_data_eq hdata
  have hlt : (unsignedAt t pre.length field.length).toNat < 2 ^ (8 * field.length) :=
    toNat_unsignedAt hdata hw4 ▸ bigEndian_lt field
  exact ⟨_, _, exec_fxU hn hw1 hw4 hlocate, exec_fxS hn hw1 hw4 hlocate, toInt_signExtended hw1 hw4 hlt⟩

/-- Settles O18: the two operations are one on every unit, and each answers once. -/
theorem signed24IsSignedOfThreeBytes : Obligations.Signed24IsSignedOfThreeBytes := by
  unfold Obligations.Signed24IsSignedOfThreeBytes
  intro s n t pos hn
  obtain ⟨r, hr⟩ := n.field_eq_ret t pos 3 fun k => .signed (signed24At t k)
  exact ⟨congrArg s.onHere (Block.fxS24_eq_fxS t pos), r, exec_next hn (congrArg _ hr)⟩

/-- Settles O19: a field of one byte lies in the payload exactly when the payload has a byte at its local index. -/
theorem bitField : Obligations.BitField := by
  unfold Obligations.BitField
  intro s n t pos p hn hp
  refine exec_next hn ?_
  rw [Block.perform, Block.fxBit, if_neg (by omega), Block.field_eq_ite]
  by_cases h : t.offset.toNat ≤ pos ∧ pos - t.offset.toNat < t.data.length
  · rw [dif_pos h, if_pos (by omega), getLsbD_byteAt h.2]
    rfl
  · rw [dif_neg h, if_neg (by omega)]
    rfl

/-- Settles O15: the answer by where the field lies, its value being the local index. -/
theorem locateField : Obligations.LocateField := by
  unfold Obligations.LocateField
  intro s n t pos w hn hw
  refine exec_next hn ?_
  rw [Block.perform, Block.fxLocate, if_neg (by omega), Block.field_eq_ite]
  rfl

end Sys2Proof.Machine
end

section
/-! PROOF. The line receiver and the loop context: what a character and a break leave, each reaction of the loop context
issued by itself, and what holds the loop context back. -/

namespace Sys2Proof.Machine

/-! ## The line receiver (43_rx_framer R195 to R198) -/

section Receiver

variable {p : Params} {n : Block}

theorem Block.hearChar_of_room (h : n.ring.length < p.ringCap) (b : Byte) :
    n.hearChar p b = Block.postChar p { n with ring := n.ring ++ [b] } := if_pos h

theorem Block.hearChar_of_full (h : p.ringCap ≤ n.ring.length) (b : Byte) :
    n.hearChar p b = { n with condRing := true } := if_neg (Nat.not_lt.mpr h)

theorem Block.post_of_room (h : n.evq.length < p.evqCap) (e : Event) :
    n.post p e = { n with evq := n.evq ++ [e] } := if_pos h

theorem Block.post_of_full (h : p.evqCap ≤ n.evq.length) (e : Event) :
    n.post p e = { n with condQueue := true } := if_neg (Nat.not_lt.mpr h)

theorem Block.postChar_of_full (h : p.evqCap ≤ n.evq.length) : n.postChar p = { n with condQueue := true } := by
  obtain ⟨-, h'⟩ | ⟨hroom, -⟩ | ⟨hroom, -⟩ := n.postChar_cases p
  · exact h'
  · omega
  · omega

theorem Block.pick_of_ring (n : Block) (r : List Byte) (k : Nat) :
    Block.pick { n with ring := r } k = ((n.pick k).1, { (n.pick k).2 with ring := r }) := by
  unfold Block.pick
  split
  · rfl
  · cases hc : n.choices with
    | nil =>
      simp only [Block.draw, hc]
      rfl
    | cons c cs => simp only [Block.draw, hc]

/-- A character for whose event there is no room is kept (R198). -/
theorem Block.hearChar_of_evq_full (hring : n.ring.length < p.ringCap) (hevq : p.evqCap ≤ n.evq.length) (b : Byte) :
    n.hearChar p b = { n with ring := n.ring ++ [b], condQueue := true } :=
  (Block.hearChar_of_room hring b).trans (Block.postChar_of_full (by exact hevq))

/-- With no `Data` newest there is nothing to merge with. -/
theorem Block.hearChar_of_newest_not_data (hring : n.ring.length < p.ringCap) (hevq : n.evq.length < p.evqCap)
    (h : ∀ k, n.evq.getLast? ≠ some (.data k)) (b : Byte) :
    n.hearChar p b = { n with ring := n.ring ++ [b], evq := n.evq ++ [.data 1] } := by
  rw [Block.hearChar_of_room hring, Block.postChar]
  split
  · exact absurd ‹_› (h _)
  · exact Block.post_of_room (by exact hevq) _

/-- With a `Data` newest the outcome picked decides between an event of its own and merging (log 22). -/
theorem Block.hearChar_of_newest_data (hring : n.ring.length < p.ringCap) (hevq : n.evq.length < p.evqCap)
    {pre : List Event} {k : Nat} (hq : n.evq = pre ++ [.data k]) (b : Byte) :
    n.hearChar p b = { (n.pick 2).2 with
      ring := n.ring ++ [b], evq := if (n.pick 2).1 = 0 then pre ++ [.data k, .data 1] else pre ++ [.data (k + 1)] } := by
  obtain ⟨cs, d, hd⟩ := n.pick_snd 2
  rw [hq, List.length_append, List.length_singleton] at hevq
  rw [Block.hearChar_of_room hring, Block.postChar, Block.pick_of_ring, hd]
  by_cases h0 : (n.pick 2).1 = 0 <;> simp [hq, h0, hevq, Block.post]

end Receiver

/-- Settles O22: by the room in `ring`, then in `evq`, then by the newest event. -/
theorem characterReceived : Obligations.CharacterReceived := by
  unfold Obligations.CharacterReceived
  intro s n b hn
  refine ⟨fun hfull => exec_next hn (congrArg _ (Block.hearChar_of_full hfull b)), fun hring =>
    ⟨fun hfull => exec_next hn (congrArg _ (Block.hearChar_of_evq_full hring hfull b)), fun hevq =>
    ⟨fun hno => exec_next hn (congrArg _ (Block.hearChar_of_newest_not_data hring hevq hno b)), fun pre k hq => ?_⟩⟩⟩
  refine ⟨?_, fun cs => ?_⟩
  · obtain ⟨cs, d, hd⟩ := n.pick_snd 2
    refine ⟨cs, d, _, ?_, exec_next hn (congrArg _ ((Block.hearChar_of_newest_data hring hevq hq b).trans (by rw [hd])))⟩
    exact ite_eq_or_eq ..
  · have supplied (c : Nat) : Block.perform s.params (.lineChar b) { n with choices := c :: cs } = .next { n with
        ring := n.ring ++ [b], evq := if c % 2 = 0 then pre ++ [.data k, .data 1] else pre ++ [.data (k + 1)]
        choices := cs } := by
      refine congrArg _ ((Block.hearChar_of_newest_data (n := { n with choices := c :: cs }) hring hevq hq b).trans ?_)
      rw [Block.pick_supplied _ Nat.one_lt_two rfl]
    exact ⟨exec_put (supplied 0), exec_put (supplied 1)⟩

/-- Settles O23: by the room in `evq`. -/
theorem breakReceived : Obligations.BreakReceived := by
  unfold Obligations.BreakReceived
  intro s n hn
  exact ⟨fun hroom => exec_next hn (congrArg _ (Block.post_of_room hroom _)),
    fun hfull => exec_next hn (congrArg _ (Block.post_of_full hfull _))⟩

/-! ## The reactions of a free loop context, issued by themselves (log 12) -/

section Reactions

variable {p : Params} {n : Block}

/-- The quiet timeout's enabling condition (R199 (d)). -/
theorem Block.nothingPending_iff :
    n.nothingPending = true ↔ n.evq = [] ∧ n.condRing = false ∧ n.condQueue = false := by
  simp [Block.nothingPending, Block.condPending]

/-- A class is decided by the length (41_codec R159). -/
theorem classOf_eq_ite (k : Nat) :
    classOf k = if k = 1 ∨ k = 2 then .poll else if 7 ≤ k then .telegram else .other := by
  have hpoll : Config.pollMinLen ≤ k ∧ k ≤ Config.pollMaxLen ↔ k = 1 ∨ k = 2 := by
    rw [Config.pollMinLen, Config.pollMaxLen]
    omega
  simp only [← hpoll]
  rfl

theorem Block.handOver_of_callback {f : Nat} (h : n.cb = some f) (frame : List Byte) :
    n.handOver frame = { n with
      inCallback := true, out := n.out ++ [.frame frame frame.length (classOf frame.length)] } := by
  simp only [Block.handOver, h, Block.emit]

theorem Block.handOver_of_no_callback (h : n.cb = none) (frame : List Byte) : n.handOver frame = n := by
  simp only [Block.handOver, h]

/-- The frame that fits, stored in `RXBUF` and handed over (R201). -/
theorem Block.takeBreak_of_fits (h : n.rxCount ≤ p.rxBufCap) :
    n.takeBreak p = Block.handOver { n with
        rxCount := 0, ring := n.ring.drop (min n.rxCount n.ring.length)
        rxBuf := Memory.writeBytes n.rxBuf 0 (n.ring.take (min n.rxCount n.ring.length)) }
      (n.ring.take (min n.rxCount n.ring.length)) := by
  have hread := Memory.readBytes_writeBytes (n.ring.take (min n.rxCount n.ring.length)) n.rxBuf 0
  rw [List.length_take, Nat.min_eq_left (Nat.min_le_right ..)] at hread
  simp only [Block.takeBreak, Block.rxOverlong, decide_eq_true_eq, if_neg (Nat.not_lt.mpr h), strip, hread]
  rfl

/-- The frame that fits, delivered to the callback (R204). -/
theorem Block.takeBreak_of_callback (h : n.rxCount ≤ p.rxBufCap) {f : Nat} (hcb : n.cb = some f) {k : Nat}
    (hk : min n.rxCount n.ring.length = k) : n.takeBreak p = { n with
      rxCount := 0, ring := n.ring.drop k, rxBuf := Memory.writeBytes n.rxBuf 0 (n.ring.take k), inCallback := true
      out := n.out ++ [.frame (n.ring.take k) k
        (if k = 1 ∨ k = 2 then .poll else if 7 ≤ k then .telegram else .other)] } := by
  have hlen : (n.ring.take k).length = k := List.length_take_of_le (hk ▸ Nat.min_le_right ..)
  rw [Block.takeBreak_of_fits h, Block.handOver_of_callback (by exact hcb), hk, hlen, classOf_eq_ite]

/-- The frame that does not fit, discarded with one warning (R202). -/
theorem Block.takeBreak_of_overlong (h : p.rxBufCap < n.rxCount) :
    n.takeBreak p = (n.endFrame (min n.rxCount n.ring.length)).report (.frameTooLong n.rxCount) := by
  simp only [Block.takeBreak, Block.rxOverlong, decide_eq_true h, if_true]

/-- With nothing pending the flush only empties `ring` and restarts the count. -/
theorem Block.flush_of_nothingPending (h : n.nothingPending = true) : n.flush = { n with ring := [], rxCount := 0 } := by
  obtain ⟨hevq, hring, hqueue⟩ := Block.nothingPending_iff.mp h
  simp [Block.flush, hevq, hring, hqueue]

theorem Block.handleTimeout_of_idle (h : n.txPhase = .idle) :
    n.handleTimeout = .next ((n.report .quietTimeout).resyncNow .loop) := by
  obtain ⟨-, h'⟩ | ⟨hbusy, -⟩ := n.handleTimeout_cases
  · exact h'
  · exact absurd h hbusy

theorem Block.handleTimeout_of_busy (h : n.txPhase ≠ .idle) : n.handleTimeout = .refused .txBusy := by
  obtain ⟨hidle, -⟩ | ⟨-, h'⟩ := n.handleTimeout_cases
  · exact absurd hidle h
  · exact h'

variable (hfree : n.loopFree = true)
include hfree

theorem Block.rxEvData_of_free (k : Nat) : n.rxEvData k = .next (n.countData k) := Block.asLoop_free hfree _

theorem Block.rxEvBreak_of_free : n.rxEvBreak p = .next (n.takeBreak p) := Block.asLoop_free hfree _

theorem Block.rxDeliver_of_free (frame : List Byte) : n.rxDeliver frame = .next (n.handOver frame) :=
  Block.asLoop_free hfree _

theorem Block.rxEvRingovf_of_cond (h : n.condRing = true) : n.rxEvRingovf = .next n.handleRingovf :=
  (Block.asLoop_free hfree _).trans (if_neg (by simp [h]))

theorem Block.rxEvRingovf_of_no_cond (h : n.condRing = false) : n.rxEvRingovf = .refused .noCondition :=
  (Block.asLoop_free hfree _).trans (if_pos h)

theorem Block.rxEvQfull_of_cond (h : n.condQueue = true) : n.rxEvQfull = .next n.handleQfull :=
  (Block.asLoop_free hfree _).trans (if_neg (by simp [h]))

theorem Block.rxEvQfull_of_no_cond (h : n.condQueue = false) : n.rxEvQfull = .refused .noCondition :=
  (Block.asLoop_free hfree _).trans (if_pos h)

theorem Block.rxEvTimeout_of_quiet (h : n.nothingPending = true) : n.rxEvTimeout = n.handleTimeout :=
  (Block.asLoop_free hfree _).trans (if_neg (by simp [h]))

theorem Block.rxEvTimeout_of_pending (h : n.nothingPending = false) : n.rxEvTimeout = .refused .notQuiet :=
  (Block.asLoop_free hfree _).trans (if_pos h)

end Reactions

/-- Settles O29: what the step leaves, and the threshold of the flag. -/
theorem dataEventCounts : Obligations.DataEventCounts := by
  unfold Obligations.DataEventCounts
  intro s n k hn hl hc hx
  exact ⟨exec_next hn (Block.rxEvData_of_free (Block.loopFree_iff.mpr ⟨hl, hc, hx⟩) k), decide_eq_true_iff⟩

/-- Settles O30: the bytes written to `RXBUF` are the oldest of `ring`, and what is read back is handed over. -/
theorem breakDeliversFrame : Obligations.BreakDeliversFrame := by
  unfold Obligations.BreakDeliversFrame
  intro s n hn hl hc hx hfits k
  have hbreak : Block.perform s.params .rxEvBreak n = .next (n.takeBreak s.params) :=
    Block.rxEvBreak_of_free (Block.loopFree_iff.mpr ⟨hl, hc, hx⟩)
  have hlen : (n.ring.take k).length = k := List.length_take_of_le (Nat.min_le_right ..)
  refine ⟨Memory.writeBytes n.rxBuf 0 (n.ring.take k), fun i hi => ?_, fun i hi => ?_,
    fun f hcb => exec_next hn (hbreak.trans (congrArg _ (Block.takeBreak_of_callback hfits hcb rfl))),
    fun hcb => exec_next hn (hbreak.trans (congrArg _ ?_))⟩
  · rw [← List.getElem?_take_of_lt hi, ← Memory.read?_writeBytes _ n.rxBuf 0 i (hlen.symm ▸ hi), Nat.zero_add]
  · exact Memory.read?_writeBytes_of_not_mem _ _ _ _ (.inr (by omega))
  · exact (Block.takeBreak_of_fits hfits).trans (Block.handOver_of_no_callback (by exact hcb) _)

/-- Settles O31: nothing is stored of a frame that does not fit. -/
theorem overlongFrameIsDiscarded : Obligations.OverlongFrameIsDiscarded := by
  unfold Obligations.OverlongFrameIsDiscarded
  intro s n hn hl hc hx hlong
  exact exec_next hn ((Block.rxEvBreak_of_free (Block.loopFree_iff.mpr ⟨hl, hc, hx⟩)).trans
    (congrArg _ (Block.takeBreak_of_overlong hlong)))

/-- Settles O32: each condition enables its reaction, which warns and flushes. -/
theorem overflowReactions : Obligations.OverflowReactions := by
  unfold Obligations.OverflowReactions
  intro s n hn hl hc hx
  have hfree := Block.loopFree_iff.mpr ⟨hl, hc, hx⟩
  exact ⟨fun h => exec_next hn (Block.rxEvRingovf_of_cond hfree h),
    fun h => exec_next hn (Block.rxEvQfull_of_cond hfree h)⟩

/-- Settles O33: the transmitter is idle, so the reaction completes. -/
theorem quietTimeoutResynchronises : Obligations.QuietTimeoutResynchronises := by
  unfold Obligations.QuietTimeoutResynchronises
  intro s n hn hl hc hevq hring hqueue hidle
  have hquiet := Block.nothingPending_iff.mpr ⟨hevq, hring, hqueue⟩
  have htimeout := (Block.rxEvTimeout_of_quiet (Block.loopFree_iff.mpr ⟨hl, hc, fun _ => hidle⟩) hquiet).trans
    (Block.handleTimeout_of_idle hidle)
  refine exec_next hn (htimeout.trans (congrArg _ ?_))
  rw [Block.resyncNow, Block.flush_of_nothingPending (by exact hquiet)]
  rfl

/-- Settles O35: by whether a callback runs, then by whether its own transmission does. -/
theorem callbackReturns : Obligations.CallbackReturns := by
  unfold Obligations.CallbackReturns
  intro s n hn
  have hheld : n.loopHeld = true ↔ n.txCtx = .loop ∧ n.txPhase ≠ .idle := by simp [Block.loopHeld, Block.txBusy]
  refine ⟨fun hc hx => exec_next hn ?_, fun hc hx hp => exec_refused hn ?_, fun hc => exec_refused hn (if_pos hc)⟩
  · exact (if_neg (by simp [hc])).trans (if_neg fun h => (hheld.mp h).2 (hx (hheld.mp h).1))
  · exact (if_neg (by simp [hc])).trans (if_pos (hheld.mpr ⟨hx, hp⟩))

/-- Settles O36: no step of a loop context that is not free; of a free one, each step's own cause. -/
theorem loopContextIsHeldBack : Obligations.LoopContextIsHeldBack := by
  unfold Obligations.LoopContextIsHeldBack
  intro s n i hn hi
  refine ⟨fun hheld => ?_, fun hl hc hx => ?_⟩
  · have hfree : n.loopFree = false := by
      rw [← Bool.not_eq_true, Block.loopFree_iff]
      rintro ⟨hl, hc, hx⟩
      obtain h | h | ⟨hctx, hphase⟩ := hheld
      · cases hl.symm.trans h
      · cases hc.symm.trans h
      · exact hphase (hx hctx)
    obtain rfl | ⟨k, rfl⟩ | rfl | rfl | rfl | rfl | ⟨f, rfl⟩ := hi <;>
    exact exec_refused hn (Block.asLoop_held hfree _)
  · have hfree := Block.loopFree_iff.mpr ⟨hl, hc, hx⟩
    refine ⟨?_, ?_, ?_, ?_⟩
    · rintro rfl h
      exact exec_refused hn (Block.rxEvRingovf_of_no_cond hfree h)
    · rintro rfl h
      exact exec_refused hn (Block.rxEvQfull_of_no_cond hfree h)
    · rintro rfl h
      refine exec_refused hn (Block.rxEvTimeout_of_pending hfree ?_)
      rw [← Bool.not_eq_true, Block.nothingPending_iff]
      rintro ⟨hevq, hring, hqueue⟩
      simp [hevq, hring, hqueue] at h
    · rintro rfl hevq hring hqueue hbusy
      exact exec_refused hn ((Block.rxEvTimeout_of_quiet hfree (Block.nothingPending_iff.mpr ⟨hevq, hring, hqueue⟩)).trans
        (Block.handleTimeout_of_busy hbusy))

end Sys2Proof.Machine
end

section
/-! PROOF. The wait of the loop context: it selects one of the reactions possible now, and every one of them by some
supplied choice. -/

namespace Sys2Proof.Machine

/-- Two operations with one effect on the addressed units are one on the machine. -/
theorem exec_put_congr {i j : Instr} {s : State} {n m : Block}
    (h : Block.perform s.params i n = Block.perform s.params j m) : exec i (s.put n) = exec j (s.put m) := by
  simp only [exec_eq_onHere, State.onHere, State.here?_put, State.put_params, State.put_put, h]

section Wait

variable {p : Params} {n : Block}

/-! ## What is possible now -/

theorem Block.ringovf_mem_pending : .ringovf ∈ n.pending ↔ n.condRing = true := by
  simp [Block.pending]

theorem Block.qfull_mem_pending : .qfull ∈ n.pending ↔ n.condQueue = true := by
  simp [Block.pending]

theorem Block.event_mem_pending : .event ∈ n.pending ↔ n.evq ≠ [] := by
  simp [Block.pending]

/-- A selection is possible exactly when the quiet timeout is not (R199). -/
theorem Block.exists_mem_pending_iff : (∃ l, l ∈ n.pending) ↔ n.nothingPending = false := by
  rw [← Bool.not_eq_true, Block.nothingPending_iff]
  constructor
  · rintro ⟨l, hl⟩ ⟨hevq, hring, hqueue⟩
    simp [Block.pending, hevq, hring, hqueue] at hl
  · intro h
    by_cases hring : n.condRing = true
    · exact ⟨_, Block.ringovf_mem_pending.mpr hring⟩
    by_cases hqueue : n.condQueue = true
    · exact ⟨_, Block.qfull_mem_pending.mpr hqueue⟩
    exact ⟨_, Block.event_mem_pending.mpr fun hevq =>
      h ⟨hevq, Bool.eq_false_of_not_eq_true hring, Bool.eq_false_of_not_eq_true hqueue⟩⟩

/-! ## Choices -/

/-- Every outcome among `k` can be supplied so that it is the one picked, and nothing supplied is left over. -/
theorem Block.exists_choices_pick (n : Block) {i k : Nat} (h : i < k) :
    ∃ cs, Block.pick { n with choices := cs } k = (i, { n with choices := [] }) := by
  by_cases hk : k ≤ 1
  · obtain rfl : i = 0 := by omega
    exact ⟨[], by simp [Block.pick, hk]⟩
  · exact ⟨[i], by simp [Block.pick, Block.draw, hk, Nat.mod_eq_of_lt h]⟩

/-- A wait with something pending carries out a possible selection. -/
theorem Block.waitPending_mem (h : n.nothingPending = false) : ∃ cs d, ∃ l ∈ n.pending,
    n.waitPending p = Block.loopStep p { n with choices := cs, drawn := d } l := by
  obtain ⟨l₀, hl₀⟩ := Block.exists_mem_pending_iff.mpr h
  obtain ⟨cs, d, l, hw, rfl⟩ := n.waitPending_cases p
  refine ⟨cs, d, _, ?_, hw⟩
  rw [List.getD_eq_getElem _ _ (n.pick_lt (List.length_pos_of_mem hl₀))]
  exact List.getElem_mem _

/-- Every possible selection is carried out by some supplied choice. -/
theorem Block.exists_choices_waitPending {l : LoopStep} (h : l ∈ n.pending) :
    ∃ cs, Block.waitPending p { n with choices := cs } = Block.loopStep p { n with choices := [] } l := by
  obtain ⟨i, hi, rfl⟩ := List.mem_iff_getElem.mp h
  obtain ⟨cs, hcs⟩ := n.exists_choices_pick hi
  refine ⟨cs, ?_⟩
  have hpending : Block.pending { n with choices := cs } = n.pending := rfl
  rw [Block.waitPending, hpending, hcs, List.getD_eq_getElem _ _ hi]

/-! ## The oldest event taken (R199 (c)) -/

theorem Block.takeEvent_of_data {k : Nat} {es : List Event} (h : n.evq = .data k :: es) :
    n.takeEvent p = { n with evq := es, rxCount := n.rxCount + k } := by
  simp only [Block.takeEvent, h, Block.countData]

theorem Block.takeEvent_of_brk {es : List Event} (h : n.evq = .brk :: es) :
    n.takeEvent p = Block.takeBreak p { n with evq := es } := by
  simp only [Block.takeEvent, h]

/-! ## The wait of a free loop context -/

variable (hfree : n.loopFree = true)
include hfree

theorem Block.rxWait_of_quiet (h : n.nothingPending = true) :
    n.rxWait p = Block.waitQuiet { n with quiet := .waiting } :=
  (Block.asLoop_free hfree _).trans (if_pos h)

theorem Block.rxWait_of_pending (h : n.nothingPending = false) :
    n.rxWait p = .next (Block.waitPending p { n with quiet := .waiting }) :=
  (Block.asLoop_free hfree _).trans (if_neg (by simp [h]))

/-- With nothing pending, outcome 0 goes on waiting and outcome 1 selects the timeout (log 23). -/
theorem Block.rxWait_of_quiet_supplied (h : n.nothingPending = true) (c : Nat) :
    Block.rxWait p { n with choices := [c] } = if c % 2 = 0 then .next { n with quiet := .waiting, choices := [] }
      else Block.handleTimeout { n with quiet := .waiting, choices := [] } := by
  rw [Block.rxWait_of_quiet (by exact hfree) (by exact h), Block.waitQuiet, Block.pick_supplied _ Nat.one_lt_two rfl]

end Wait

/-! ## A selection carried out is the reaction issued by itself, an event taken from the queue -/

section Reactions

variable {s : State} {m : Block} (hfree : m.loopFree = true)
include hfree

theorem exec_rxEvRingovf_put (h : m.condRing = true) :
    exec .rxEvRingovf (s.put m) = .next (s.put (m.loopStep s.params .ringovf)) :=
  exec_put (Block.rxEvRingovf_of_cond hfree h)

theorem exec_rxEvQfull_put (h : m.condQueue = true) :
    exec .rxEvQfull (s.put m) = .next (s.put (m.loopStep s.params .qfull)) :=
  exec_put (Block.rxEvQfull_of_cond hfree h)

theorem exec_rxEvData_put {k : Nat} {es : List Event} (h : m.evq = .data k :: es) :
    exec (.rxEvData k) (s.put { m with evq := es }) = .next (s.put (m.loopStep s.params .event)) := by
  rw [Block.loopStep, Block.takeEvent_of_data h]
  exact exec_put (Block.rxEvData_of_free (by exact hfree) k)

theorem exec_rxEvBreak_put {es : List Event} (h : m.evq = .brk :: es) :
    exec .rxEvBreak (s.put { m with evq := es }) = .next (s.put (m.loopStep s.params .event)) := by
  rw [Block.loopStep, Block.takeEvent_of_brk h]
  exact exec_put (Block.rxEvBreak_of_free (by exact hfree))

end Reactions

/-- Settles O27: with something pending a possible selection is carried out, with nothing pending the wait goes on or
selects the timeout, whose reaction completes when the transmitter is idle. -/
theorem waitSelectsOneReaction : Obligations.WaitSelectsOneReaction := by
  unfold Obligations.WaitSelectsOneReaction
  intro s n hn hl hc hx
  have hfree := Block.loopFree_iff.mpr ⟨hl, hc, hx⟩
  cases hquiet : n.nothingPending with
  | false =>
    refine ⟨fun _ => ?_, fun _ hevq hring hqueue => ?_⟩
    · obtain ⟨cs, d, l, hmem, hw⟩ := Block.waitPending_mem (p := s.params) (n := { n with quiet := .waiting }) hquiet
      refine ⟨_, cs, d, exec_next hn ((Block.rxWait_of_pending hfree hquiet).trans (congrArg _ hw)), ?_⟩
      have hfree' : Block.loopFree { n with quiet := .waiting, choices := cs, drawn := d } = true := hfree
      cases l with
      | ringovf =>
        have hcond := Block.ringovf_mem_pending.mp hmem
        exact .inl ⟨hcond, exec_rxEvRingovf_put hfree' hcond⟩
      | qfull =>
        have hcond := Block.qfull_mem_pending.mp hmem
        exact .inr (.inl ⟨hcond, exec_rxEvQfull_put hfree' hcond⟩)
      | event =>
        obtain ⟨e, es, hq⟩ := List.exists_cons_of_ne_nil (Block.event_mem_pending.mp hmem)
        cases e with
        | data k => exact .inr (.inr (.inl ⟨k, es, hq, exec_rxEvData_put hfree' hq⟩))
        | brk => exact .inr (.inr (.inr (.inl ⟨es, hq, exec_rxEvBreak_put hfree' hq⟩)))
    · cases hquiet.symm.trans (Block.nothingPending_iff.mpr ⟨hevq, hring, hqueue⟩)
  | true =>
    obtain ⟨hevq, hring, hqueue⟩ := Block.nothingPending_iff.mp hquiet
    have hwait := Block.rxWait_of_quiet (p := s.params) hfree hquiet
    obtain ⟨cs, d, hw⟩ := Block.waitQuiet_cases { n with quiet := .waiting }
    refine ⟨fun hsome => ?_, fun hbusy _ _ _ => ?_⟩
    · have hidle : n.txPhase = .idle := by simpa [hevq, hring, hqueue] using hsome
      obtain hw | hw := hw
      · exact ⟨_, cs, d, exec_next hn (hwait.trans hw), .inr (.inr (.inr (.inr ⟨hevq, hring, hqueue, .inl rfl⟩)))⟩
      · have hdone := hw.trans (Block.handleTimeout_of_idle (by exact hidle))
        refine ⟨_, cs, d, exec_next hn (hwait.trans hdone),
          .inr (.inr (.inr (.inr ⟨hevq, hring, hqueue, .inr (exec_put ?_)⟩)))⟩
        exact (Block.rxEvTimeout_of_quiet (by exact hfree) (by exact hquiet)).trans (hw.symm.trans hdone)
    · obtain hw | hw := hw
      · exact .inl ⟨cs, d, exec_next hn (hwait.trans hw)⟩
      · exact .inr (exec_refused hn (hwait.trans (hw.trans (Block.handleTimeout_of_busy (by exact hbusy)))))

/-- Settles O28: the choice that picks the selection's place among those possible; with nothing pending, outcome 1 or 0. -/
theorem everyReactionIsAdmitted : Obligations.EveryReactionIsAdmitted := by
  unfold Obligations.EveryReactionIsAdmitted
  intro s n hn hl hc hx m
  have hfree : m.loopFree = true := Block.loopFree_iff.mpr ⟨hl, hc, hx⟩
  have admitted {l : LoopStep} (h : l ∈ m.pending) :
      ∃ cs, exec .rxWait (s.put { n with choices := cs }) = .next (s.put (m.loopStep s.params l)) := by
    obtain ⟨cs, hcs⟩ := Block.exists_choices_waitPending (p := s.params) h
    refine ⟨cs, exec_put ((Block.rxWait_of_pending (by exact hfree) ?_).trans (congrArg _ hcs))⟩
    exact (Block.exists_mem_pending_iff (n := m)).mp ⟨l, h⟩
  refine ⟨fun h => ?_, fun h => ?_, fun k es hq => ?_, fun es hq => ?_, fun hevq hring hqueue => ?_⟩
  · obtain ⟨cs, hcs⟩ := admitted (Block.ringovf_mem_pending.mpr h)
    exact ⟨cs, hcs.trans (exec_rxEvRingovf_put hfree h).symm⟩
  · obtain ⟨cs, hcs⟩ := admitted (Block.qfull_mem_pending.mpr h)
    exact ⟨cs, hcs.trans (exec_rxEvQfull_put hfree h).symm⟩
  · obtain ⟨cs, hcs⟩ := admitted (Block.event_mem_pending.mpr (List.ne_nil_of_mem (hq ▸ List.mem_cons_self)))
    exact ⟨cs, hcs.trans (exec_rxEvData_put hfree hq).symm⟩
  · obtain ⟨cs, hcs⟩ := admitted (Block.event_mem_pending.mpr (List.ne_nil_of_mem (hq ▸ List.mem_cons_self)))
    exact ⟨cs, hcs.trans (exec_rxEvBreak_put hfree hq).symm⟩
  · have hquiet := Block.nothingPending_iff.mpr ⟨hevq, hring, hqueue⟩
    have hwait := Block.rxWait_of_quiet_supplied (p := s.params) (n := n) (by exact hfree) hquiet
    refine ⟨⟨[1], exec_put_congr ((hwait 1).trans ?_)⟩, [0], exec_put (hwait 0)⟩
    exact (Block.rxEvTimeout_of_quiet hfree (by exact hquiet)).symm

end Sys2Proof.Machine
end

section
/-! PROOF. The accounting of received bytes, kept by every operation; the reception of a whole frame. -/

namespace Sys2Proof.Machine

/-! ## Bytes announced by the queue -/

@[simp] theorem queued_append (es fs : List Event) : queued (es ++ fs) = queued es + queued fs := by
  induction es with
  | nil => simp [queued]
  | cons e es ih => cases e <;> simp [queued, ih, Nat.add_assoc]

section Accounting

variable {p : Params} {n m : Block}

/-- With room in the queue a character adds one byte to those announced, and no break (R195, R198). -/
theorem Block.postChar_of_room (h : n.evq.length < p.evqCap) : ∃ es cs d,
    n.postChar p = { n with evq := es, choices := cs, drawn := d } ∧ es.length ≤ n.evq.length + 1
      ∧ queued es = queued n.evq + 1 ∧ (.brk ∉ n.evq → .brk ∉ es) := by
  obtain ⟨hfull, -⟩ | ⟨-, cs, d, h'⟩ | ⟨-, pre, k, cs, d, hq, h'⟩ := n.postChar_cases p
  · omega
  · exact ⟨_, cs, d, h', by simp, by simp [queued], by simp⟩
  · exact ⟨_, cs, d, h', by simp [hq], by simp [hq, queued, Nat.add_assoc], by simp [hq]⟩

/-! ## The accounting is kept (43_rx_framer R208) -/

theorem Block.counted_of_condPending (h : n.condPending = true) : n.counted := fun h' => nomatch h.symm.trans h'

theorem Block.counted.hearChar (hn : n.counted) (b : Byte) : (n.hearChar p b).counted := by
  by_cases hring : n.ring.length < p.ringCap
  · by_cases hevq : n.evq.length < p.evqCap
    · obtain ⟨es, cs, d, h, -, hes, -⟩ := Block.postChar_of_room (n := { n with ring := n.ring ++ [b] }) hevq
      rw [Block.hearChar_of_room hring, h]
      intro hcond
      have hlen := hn hcond
      simp only [List.length_append, List.length_singleton, hes]
      omega
    · rw [Block.hearChar_of_evq_full hring (Nat.not_lt.mp hevq)]
      exact Block.counted_of_condPending (by simp [Block.condPending])
  · rw [Block.hearChar_of_full (Nat.not_lt.mp hring)]
    exact Block.counted_of_condPending (by simp [Block.condPending])

theorem Block.counted.hearChars (hn : n.counted) (bs : List Byte) : (bs.foldl (Block.hearChar p) n).counted := by
  induction bs generalizing n with
  | nil => exact hn
  | cons b bs ih => exact ih (hn.hearChar b)

theorem Block.counted.hearBreak (hn : n.counted) : (n.hearBreak p).counted := by
  obtain ⟨-, h⟩ | ⟨-, h⟩ := n.post_cases p .brk <;> rw [Block.hearBreak, h]
  · intro hcond
    have hlen := hn hcond
    simpa [queued] using hlen
  · exact Block.counted_of_condPending (by simp [Block.condPending])

theorem Block.counted.handOver (hn : n.counted) (frame : List Byte) : (n.handOver frame).counted := by
  unfold Block.handOver
  split <;> exact hn

/-- The counted bytes leave `ring` as the count starts again. -/
theorem Block.counted.endFrame (hn : n.counted) : (n.endFrame (min n.rxCount n.ring.length)).counted := by
  intro hcond
  have hlen := hn hcond
  simp only [Block.endFrame, List.length_drop]
  omega

theorem Block.counted.takeBreak (hn : n.counted) : (n.takeBreak p).counted := by
  unfold Block.takeBreak
  split
  · exact hn.endFrame
  · refine Block.counted.handOver ?_ _
    exact hn.endFrame

theorem Block.counted_flush (n : Block) : n.flush.counted := fun _ => rfl

theorem Block.counted.loopStep (hn : n.counted) (l : LoopStep) : (n.loopStep p l).counted := by
  cases l with
  | ringovf | qfull => exact Block.counted_flush _
  | event =>
    rw [Block.loopStep]
    cases hq : n.evq with
    | nil => simpa only [Block.takeEvent, hq] using hn
    | cons e es =>
      cases e with
      | data k =>
        rw [Block.takeEvent_of_data hq]
        intro hcond
        have hlen := hn hcond
        rw [hq, queued] at hlen
        simp only
        omega
      | brk =>
        rw [Block.takeEvent_of_brk hq]
        refine Block.counted.takeBreak fun hcond => ?_
        simpa [hq, queued] using hn hcond

theorem Block.counted.rxWait (hn : n.counted) (h : n.rxWait p = .next m) : m.counted := by
  obtain ⟨-, cs, d, rfl | ⟨-, rfl⟩ | ⟨l, rfl⟩⟩ := Block.rxWait_cases h
  · exact hn
  · exact Block.counted_flush n
  · exact Block.counted.loopStep (n := { n with quiet := .waiting, choices := cs, drawn := d }) hn l

theorem Block.counted.sendChar (hn : n.counted) (b : Byte) : (n.sendChar p b).counted := hn

theorem Block.counted.draw (hn : n.counted) : (n.draw).2.counted := by
  obtain ⟨cs, d, h⟩ := n.draw_snd
  rw [h]
  exact hn

theorem Block.counted.txByte (hn : n.counted) (h : n.txByte p = .next m) : m.counted := by
  obtain ⟨-, h⟩ := Block.guard_cases h
  split at h
  · cases h
  · split at h
    · cases h
      exact hn.sendChar _
    · cases h
      exact hn.draw.sendChar _

/-- Every operation but RX.EV.DATA keeps the accounting of the unit it is performed on. -/
theorem Block.counted.perform {i : Instr} (hn : n.counted) (h : Block.perform p i n = .next m)
    (hdata : ∀ k, i ≠ .rxEvData k) : m.counted := by
  by_cases hi : i.answers = true
  · obtain ⟨o, rfl⟩ := Block.perform_answers h hi
    exact hn
  cases i with
  | lineChar b =>
    cases h
    exact hn.hearChar b
  | ch b =>
    cases h
    exact Block.counted.hearChar (n := { n with hidden := .idle }) hn b
  | lineBreak =>
    cases h
    exact hn.hearBreak
  | brk k =>
    obtain ⟨-, h⟩ := Block.guard_cases h
    cases h
    exact Block.counted.hearBreak (n := { n with hidden := .idle }) hn
  | poll1 b | poll2 b0 b1 =>
    cases h
    exact (Block.counted.hearChars (n := { n with hidden := .idle }) hn _).hearBreak
  | rxWait => exact hn.rxWait h
  | rxEvData k => exact absurd rfl (hdata k)
  | rxEvBreak =>
    obtain ⟨-, h⟩ := Block.asLoop_cases h
    cases h
    exact hn.takeBreak
  | rxDeliver frame =>
    obtain ⟨-, h⟩ := Block.asLoop_cases h
    cases h
    exact hn.handOver frame
  | rxEvRingovf | rxEvQfull =>
    obtain ⟨-, h⟩ := Block.asLoop_cases h
    obtain ⟨-, h⟩ := Block.guard_cases h
    cases h
    exact Block.counted_flush _
  | rxEvTimeout =>
    obtain ⟨-, h⟩ := Block.asLoop_cases h
    obtain ⟨-, h⟩ := Block.guard_cases h
    obtain ⟨-, rfl⟩ := Block.handleTimeout_next h
    exact Block.counted_flush n
  | rxFlush =>
    cases h
    exact Block.counted_flush n
  | resync ctx =>
    obtain ⟨-, h⟩ := Block.guard_cases h
    cases h
    exact Block.counted_flush n
  | reset =>
    cases h
    exact fun _ => rfl
  | txStart bytes ctx =>
    obtain ⟨-, h⟩ := Block.guard_cases h
    cases h
    split <;> exact hn
  | txByte => exact hn.txByte h
  | txBrkRelease =>
    obtain ⟨-, h⟩ := Block.guard_cases h
    obtain ⟨-, h⟩ := Block.guard_cases h
    cases h
    unfold Block.retSent
    split <;> exact hn
  | dlyStart d =>
    obtain ⟨-, -, rfl⟩ := Block.dlyStart_cases h
    exact hn
  | cbReturn | txGap =>
    obtain ⟨-, h⟩ := Block.guard_cases h
    obtain ⟨-, h⟩ := Block.guard_cases h
    cases h
    exact hn
  | txBrkAssert | txSendbreak ctx | dlyExpire =>
    obtain ⟨-, h⟩ := Block.guard_cases h
    cases h
    exact hn
  | crc8Clr | crc8Upd b | cfgLine | cbRegister f | listenStart =>
    cases h
    exact hn
  | _ => exact absurd rfl hi

end Accounting

/-- Settles O52: what is announced, counted and kept changes together, and a flush empties all three. -/
theorem receivedBytesAreAccountedFor : Obligations.ReceivedBytesAreAccountedFor := by
  unfold Obligations.ReceivedBytesAreAccountedFor
  intro s t n m i hn h hm hi hcounted
  exact hcounted.perform (perform_of_exec hn h hm) hi

end Sys2Proof.Machine
end

section
/-! PROOF. A whole frame received: what its line events leave, and the waits that count its bytes and deliver it. -/

namespace Sys2Proof.Machine

/-- A frame was delivered with its class, and nothing of it is left on the receive side (43_rx_framer R204). -/
abbrev Block.hasDelivered (n : Block) (frame : List Byte) (m : Block) : Prop :=
  m.out = n.out ++ [.frame frame frame.length
      (if frame.length = 1 ∨ frame.length = 2 then .poll else if 7 ≤ frame.length then .telegram else .other)]
    ∧ m.inCallback = true ∧ m.ring = [] ∧ m.evq = [] ∧ m.rxCount = 0 ∧ m.condPending = false

theorem execAll_append {is : List Instr} {s t : State} (h : execAll is s = .next t) (js : List Instr) :
    execAll (is ++ js) s = execAll js t := by
  induction is generalizing s with
  | nil =>
    cases h
    rfl
  | cons i is ih =>
    cases hi : exec i s with
    | next u =>
      rw [execAll_cons hi] at h
      exact (execAll_cons hi).trans (ih h)
    | fault e => simp [execAll, hi] at h
    | refused r => simp [execAll, hi] at h

section Reception

variable {p : Params} {n : Block}

/-- Characters for which there is room are kept in order, and announced without a break (R195, R211). -/
theorem Block.hearChars_of_room (bs : List Byte) (hring : n.ring.length + bs.length ≤ p.ringCap)
    (hevq : n.evq.length + bs.length ≤ p.evqCap) : ∃ es cs d,
    bs.foldl (Block.hearChar p) n = { n with ring := n.ring ++ bs, evq := es, choices := cs, drawn := d }
      ∧ es.length ≤ n.evq.length + bs.length ∧ (.brk ∉ n.evq → .brk ∉ es) := by
  induction bs generalizing n with
  | nil => exact ⟨n.evq, n.choices, n.drawn, by simp, Nat.le_refl _, fun h => h⟩
  | cons b bs ih =>
    rw [List.length_cons] at hring hevq
    obtain ⟨es, cs, d, hchar, hlen, -, hbrk⟩ :=
      Block.postChar_of_room (p := p) (n := { n with ring := n.ring ++ [b] }) (show n.evq.length < _ by omega)
    have hlen : es.length ≤ n.evq.length + 1 := hlen
    rw [← Block.hearChar_of_room (by omega)] at hchar
    obtain ⟨fs, cs', d', h, hlen', hbrk'⟩ := ih (n := n.hearChar p b) (by simp [hchar]; omega) (by simp [hchar]; omega)
    rw [hchar] at h hlen' hbrk'
    refine ⟨fs, cs', d', ?_, ?_, fun hn => hbrk' (hbrk hn)⟩
    · simpa [hchar] using h
    · simp only [List.length_cons] at hlen' ⊢
      omega

/-- The line events of a frame within the capacities, at an idle listening block. -/
theorem Block.heard_of_listeningIdle (hidle : n.listeningIdle) {bs : List Byte} (hring : bs.length ≤ p.ringCap)
    (hevq : bs.length < p.evqCap) : ∃ es cs d, (bs.foldl (Block.hearChar p) n).hearBreak p =
      { n with ring := bs, evq := es ++ [.brk], choices := cs, drawn := d } ∧ es.length ≤ bs.length ∧ .brk ∉ es := by
  obtain ⟨-, hring0, hevq0, -, -⟩ := hidle
  obtain ⟨es, cs, d, h, hlen, hbrk⟩ := Block.hearChars_of_room (p := p) (n := n) bs
    (by simpa [hring0] using hring) (by simpa [hevq0] using hevq.le)
  simp only [hring0, hevq0, List.nil_append, List.length_nil, Nat.zero_add] at h hlen hbrk
  refine ⟨es, cs, d, ?_, hlen, hbrk List.not_mem_nil⟩
  rw [h, Block.hearBreak, Block.post_of_room (lt_of_le_of_lt hlen hevq)]

/-- With no condition pending the wait takes the oldest event, and there is no choice to make (R199). -/
theorem Block.rxWait_takes_event (hfree : n.loopFree = true) (hcond : n.condPending = false) (hq : n.evq ≠ []) :
    n.rxWait p = .next (Block.takeEvent p { n with quiet := .waiting }) := by
  rw [Block.condPending, Bool.or_eq_false_iff] at hcond
  have hpending : Block.pending { n with quiet := .waiting } = [.event] := by
    simp [Block.pending, hcond, hq]
  have hsome : n.nothingPending = false := Block.exists_mem_pending_iff.mp ⟨_, Block.event_mem_pending.mpr hq⟩
  rw [Block.rxWait_of_pending hfree hsome, Block.waitPending, hpending]
  rfl

end Reception

section Delivery

variable {s : State} {n : Block}

theorem exec_rxWait_takes_data (hfree : n.loopFree = true) (hcond : n.condPending = false) {k : Nat} {es : List Event}
    (hq : n.evq = .data k :: es) : exec .rxWait (s.put n) =
      .next (s.put { n with quiet := .waiting, evq := es, rxCount := n.rxCount + k }) := by
  refine exec_put ((Block.rxWait_takes_event hfree hcond (by simp [hq])).trans (congrArg _ ?_))
  exact Block.takeEvent_of_data (by exact hq)

theorem exec_rxWait_takes_brk (hfree : n.loopFree = true) (hcond : n.condPending = false) {es : List Event}
    (hq : n.evq = .brk :: es) : exec .rxWait (s.put n) =
      .next (s.put (Block.takeBreak s.params { n with quiet := .waiting, evq := es })) := by
  refine exec_put ((Block.rxWait_takes_event hfree hcond (by simp [hq])).trans (congrArg _ ?_))
  exact Block.takeEvent_of_brk (by exact hq)

/-- Waits take the events of a frame one by one, count its bytes and at its break deliver what has been counted. -/
theorem execAll_rxWaits_deliver {f : Nat} {es : List Event} (hbrk : .brk ∉ es) (hq : n.evq = es ++ [.brk])
    (hfree : n.loopFree = true) (hcond : n.condPending = false) (hcounted : n.counted)
    (hfits : n.ring.length ≤ s.params.rxBufCap) (hcb : n.cb = some f) : ∃ m,
    execAll (List.replicate (es.length + 1) .rxWait) (s.put n) = .next (s.put m) ∧ n.hasDelivered n.ring m := by
  have hlen := hcounted hcond
  induction es generalizing n with
  | nil =>
    simp only [hq, List.nil_append, queued, Nat.add_zero] at hlen
    refine ⟨_, execAll_cons (exec_rxWait_takes_brk hfree hcond hq), ?_⟩
    rw [Block.takeBreak_of_callback (by exact hlen ▸ hfits) (by exact hcb) (Nat.min_eq_right (by exact hlen.le)),
      List.take_length, List.drop_length]
    exact ⟨rfl, rfl, rfl, rfl, rfl, hcond⟩
  | cons e es ih =>
    obtain ⟨hne, hrest⟩ := List.ne_and_not_mem_of_not_mem_cons hbrk
    cases e with
    | brk => exact absurd rfl hne
    | data k =>
      rw [List.length_cons, List.replicate_succ, execAll_cons (exec_rxWait_takes_data hfree hcond hq)]
      rw [hq, List.cons_append, queued, ← Nat.add_assoc] at hlen
      exact ih (n := { n with quiet := .waiting, evq := es ++ [.brk], rxCount := n.rxCount + k }) hrest rfl hfree hcond
        (fun _ => hlen) hfits hcb hlen

/-- A frame heard by an idle listening block with a callback, within the capacities, is delivered by waits (R208). -/
theorem execAll_rxWaits_after_frame {f : Nat} {bs : List Byte} (hidle : n.listeningIdle) (hcb : n.cb = some f)
    (hring : bs.length ≤ s.params.ringCap) (hbuf : bs.length ≤ s.params.rxBufCap) (hevq : bs.length < s.params.evqCap) :
    ∃ k m, k ≤ bs.length + 1 ∧ execAll (List.replicate k .rxWait)
        (s.put ((bs.foldl (Block.hearChar s.params) n).hearBreak s.params)) = .next (s.put m)
      ∧ n.hasDelivered bs m := by
  obtain ⟨es, cs, d, h, hlen, hbrk⟩ := Block.heard_of_listeningIdle hidle hring hevq
  obtain ⟨hfree, hring0, hevq0, hcond, hcount⟩ := hidle
  have hcounted : n.counted := fun _ => by simp [hring0, hevq0, hcount, queued]
  have hcounted' := (hcounted.hearChars (p := s.params) bs).hearBreak (p := s.params)
  rw [h] at hcounted' ⊢
  obtain ⟨m, hm, hdelivered⟩ := execAll_rxWaits_deliver (s := s)
    (n := { n with ring := bs, evq := es ++ [.brk], choices := cs, drawn := d }) hbrk rfl hfree hcond hcounted' hbuf hcb
  exact ⟨_, m, Nat.succ_le_succ hlen, hm, hdelivered⟩

end Delivery

/-- Settles O53: the line events of the frame, then a wait for each event they have left. -/
theorem receivedFrameIsDelivered : Obligations.ReceivedFrameIsDelivered := by
  unfold Obligations.ReceivedFrameIsDelivered
  intro s n f bytes hn hidle hcb hring hbuf hevq
  obtain ⟨k, m, hk, hm, hdelivered⟩ := execAll_rxWaits_after_frame hidle hcb hring hbuf hevq
  have harrive := execAll_arrivals_put s bytes n
  rw [State.put_here s n hn] at harrive
  exact ⟨k, m, hk, (execAll_append harrive _).trans hm, hdelivered⟩

/-- Settles O34: a poll frame is heard as its characters and its break, and delivered as every frame is. -/
theorem frameIsHandedToTheHost : Obligations.FrameIsHandedToTheHost := by
  unfold Obligations.FrameIsHandedToTheHost
  intro s n frame b0 b1 hn hl hc hx
  have hdeliver : Block.perform s.params (.rxDeliver frame) n = .next (n.handOver frame) :=
    Block.rxDeliver_of_free (Block.loopFree_iff.mpr ⟨hl, hc, hx⟩) frame
  refine ⟨fun f hcb => ⟨?_, fun hidle => ?_⟩, fun hcb => ?_⟩
  · rw [← classOf_eq_ite]
    exact exec_next hn (hdeliver.trans (congrArg _ (Block.handOver_of_callback hcb frame)))
  · have hbuf : 34 ≤ s.params.rxBufCap := Nat.le_add_right ..
    have hring : 1 ≤ s.params.ringCap := Nat.le_add_right ..
    have polled {bs : List Byte} := execAll_rxWaits_after_frame (s := s) (n := { n with hidden := .idle }) (bs := bs) hidle hcb
    refine ⟨fun hevq => ?_, fun hring hevq => ?_⟩
    · obtain ⟨k, m, hk, hm, hout, hin, hring, hevq, hcount, -⟩ := polled (bs := [b0]) hring (by simp; omega) hevq
      exact ⟨k, m, hk, (execAll_cons (exec_next hn rfl)).trans hm, hout, hin, hring, hevq, hcount⟩
    · obtain ⟨k, m, hk, hm, hout, hin, hring, hevq, hcount, -⟩ := polled (bs := [b0, b1]) hring (by simp; omega) hevq
      exact ⟨k, m, hk, (execAll_cons (exec_next hn rfl)).trans hm, hout, hin, hring, hevq, hcount⟩
  · exact exec_next hn (hdeliver.trans (congrArg _ (Block.handOver_of_no_callback hcb frame)))

end Sys2Proof.Machine
end

section
/-! PROOF. The transmit sequencer and the delay generator: one rule per transmit step, and a whole transmission as these
steps in a row. -/

namespace Sys2Proof.Machine

/-! ## One rule per transmit step (44_tx_delay R225 to R232) -/

section Steps

variable {p : Params} {n : Block}

theorem Block.txBusy_iff : n.txBusy = true ↔ n.txPhase ≠ .idle := by
  simp [Block.txBusy]

/-- What is sent joins the echo in flight exactly when the line echoes (20_memory R75). -/
theorem Block.sent_eq (e : LineEvent) :
    n.sent p e = { n with echo := n.echo ++ (if p.lineEcho then [e] else []) } := by
  unfold Block.sent
  split <;> simp

theorem Block.sendChar_eq (b : Byte) : n.sendChar p b = { n with
    txd := .char b, out := n.out ++ [.lineChar b], dly := some .byteGap, txPhase := .gap
    echo := n.echo ++ (if p.lineEcho then [.char b] else []) } := by
  rw [Block.sendChar, Block.sent_eq]
  rfl

theorem Block.retSent_eq :
    n.retSent = { n with out := n.out ++ (if n.txLen = 0 then [] else [.ret (.bool true)]) } := by
  unfold Block.retSent
  split
  · simp
  · rfl

theorem Block.txStart_of_length {bytes : List Byte} (hidle : n.txPhase = .idle) (hne : bytes ≠ [])
    (hmax : bytes.length ≤ p.txMaxLen) (ctx : Ctx) : n.txStart p bytes ctx = .next (n.loadTx bytes ctx) := by
  have hlen : ¬(bytes.length = 0 ∨ p.txMaxLen < bytes.length) := by simp [hne, hmax]
  rw [Block.txStart, if_neg (Block.not_txBusy_iff.mpr hidle), if_neg hlen]

theorem Block.txStart_of_bad_length {bytes : List Byte} (hidle : n.txPhase = .idle)
    (hlen : bytes = [] ∨ p.txMaxLen < bytes.length) (ctx : Ctx) :
    n.txStart p bytes ctx = .next (n.report .txRefused) := by
  rw [← List.length_eq_zero_iff] at hlen
  rw [Block.txStart, if_neg (Block.not_txBusy_iff.mpr hidle), if_pos hlen]

theorem Block.txSendbreak_of_idle (hidle : n.txPhase = .idle) (ctx : Ctx) :
    n.txSendbreak ctx = .next (n.sendBreak ctx) :=
  if_neg (Block.not_txBusy_iff.mpr hidle)

theorem Block.txByte_of_other_phase (h : n.txPhase ≠ .byte) : n.txByte p = .refused .wrongPhase := if_pos h

theorem Block.txByte_of_read {b : Byte} (hphase : n.txPhase = .byte) (hidx : n.txIdx < p.txMaxLen)
    (hread : Memory.read? n.txBuf n.txIdx = some b) : n.txByte p = .next (n.sendChar p b) := by
  simp only [Block.txByte, if_neg (not_not_intro hphase), if_neg (Nat.not_le.mpr hidx), hread]

/-- A byte that nothing has written is drawn (log 6). -/
theorem Block.txByte_of_unwritten (hphase : n.txPhase = .byte) (hidx : n.txIdx < p.txMaxLen)
    (hread : Memory.read? n.txBuf n.txIdx = none) :
    n.txByte p = .next ((n.draw).2.sendChar p (BitVec.ofNat 8 (n.draw).1)) := by
  simp only [Block.txByte, if_neg (not_not_intro hphase), if_neg (Nat.not_le.mpr hidx), hread]

theorem Block.txGap_of_other_phase (h : n.txPhase ≠ .gap) : n.txGap = .refused .wrongPhase := if_pos h

theorem Block.txGap_of_running (hphase : n.txPhase = .gap) (hdly : n.dly ≠ none) :
    n.txGap = .refused .delayRunning :=
  (if_neg (not_not_intro hphase)).trans (if_pos hdly)

theorem Block.txGap_of_expired (hphase : n.txPhase = .gap) (hdly : n.dly = none) : n.txGap = .next { n with
    txd := .released, txIdx := n.txIdx + 1, txPhase := if n.txIdx + 1 < n.txLen then .byte else .brkAssert } :=
  (if_neg (not_not_intro hphase)).trans (if_neg (not_not_intro hdly))

theorem Block.txBrkAssert_of_other_phase (h : n.txPhase ≠ .brkAssert) : n.txBrkAssert = .refused .wrongPhase :=
  if_pos h

theorem Block.txBrkAssert_of_phase (hphase : n.txPhase = .brkAssert) : n.txBrkAssert = .next { n with
    txd := .space, out := n.out ++ [.lineLow], dly := some .breakHold, txPhase := .brkHold } :=
  if_neg (not_not_intro hphase)

theorem Block.txBrkRelease_of_other_phase (h : n.txPhase ≠ .brkHold) : n.txBrkRelease p = .refused .wrongPhase :=
  if_pos h

theorem Block.txBrkRelease_of_running (hphase : n.txPhase = .brkHold) (hdly : n.dly ≠ none) :
    n.txBrkRelease p = .refused .delayRunning :=
  (if_neg (not_not_intro hphase)).trans (if_pos hdly)

theorem Block.txBrkRelease_of_expired (hphase : n.txPhase = .brkHold) (hdly : n.dly = none) :
    n.txBrkRelease p = .next { n with
      txd := .released, txPhase := .idle
      out := n.out ++ [.lineRelease] ++ (if n.txLen = 0 then [] else [.ret (.bool true)])
      echo := n.echo ++ (if p.lineEcho then [.brk] else []) } := by
  rw [Block.txBrkRelease, if_neg (not_not_intro hphase), if_neg (not_not_intro hdly), Block.retSent_eq, Block.sent_eq]
  rfl

theorem Block.dlyStart_of_other_phase {d : Delay} (h : n.txPhase ≠ delayPhase d) :
    n.dlyStart d = .refused .wrongPhase := if_pos h

theorem Block.dlyStart_of_running {d : Delay} (hphase : n.txPhase = delayPhase d) (hdly : n.dly ≠ none) :
    n.dlyStart d = .refused .delayRunning :=
  (if_neg (not_not_intro hphase)).trans (if_pos hdly)

theorem Block.dlyStart_of_stopped {d : Delay} (hphase : n.txPhase = delayPhase d) (hdly : n.dly = none) :
    n.dlyStart d = .next { n with dly := some d } :=
  (if_neg (not_not_intro hphase)).trans (if_neg (not_not_intro hdly))

theorem Block.dlyExpire_of_running (hdly : n.dly ≠ none) : n.dlyExpire = .next { n with dly := none } := if_neg hdly

theorem Block.dlyExpire_of_stopped (hdly : n.dly = none) : n.dlyExpire = .refused .delayStopped := if_pos hdly

/-- The phase a delay runs in, written out. -/
theorem eq_delayPhase_iff {d : Delay} {phase : TxPhase} :
    phase = delayPhase d ↔ (d = .byteGap ∧ phase = .gap) ∨ (d = .breakHold ∧ phase = .brkHold) := by
  cases d <;> simp [delayPhase]

/-- The delay generator is stopped in the phases in which TX.BYTE and TX.BRK.ASSERT start it. -/
theorem Block.dly_eq_none_of_starting (hok : n.delayOk = true) (hphase : n.txPhase = .byte ∨ n.txPhase = .brkAssert) :
    n.dly = none := by
  cases hd : n.dly with
  | none => rfl
  | some d =>
    simp only [Block.delayOk, hd, beq_iff_eq, eq_delayPhase_iff] at hok
    obtain h | h := hphase <;> simp [h] at hok

end Steps

/-! ## The statements about single steps -/

/-- Settles O37: the buffer is written from address 0, and nothing beyond its length. -/
theorem transmissionStarts : Obligations.TransmissionStarts := by
  unfold Obligations.TransmissionStarts
  intro s n bytes ctx hn hidle
  refine ⟨fun hlen => exec_next hn (Block.txStart_of_bad_length hidle hlen ctx), fun hne hmax =>
    ⟨_, exec_next hn (Block.txStart_of_length hidle hne hmax ctx), fun i hi => ?_, fun i hi => ?_⟩⟩
  · rw [← Memory.read?_writeBytes bytes n.txBuf 0 i hi, Nat.zero_add]
  · exact Memory.read?_writeBytes_of_not_mem _ _ _ _ (.inr (by omega))

/-- Settles O38: by whether the byte has been written. -/
theorem byteIsSent : Obligations.ByteIsSent := by
  unfold Obligations.ByteIsSent
  intro s n hn hphase hidx
  refine ⟨fun b hread => ?_, fun hread => ?_⟩
  · exact exec_next hn ((Block.txByte_of_read hphase hidx hread).trans (congrArg _ (Block.sendChar_eq b)))
  · obtain ⟨cs, d, hd⟩ := n.draw_snd
    refine ⟨.ofNat 8 (n.draw).1, cs, d,
      exec_next hn ((Block.txByte_of_unwritten hphase hidx hread).trans (congrArg _ ?_))⟩
    rw [hd, Block.sendChar_eq]

/-- Settles O39: in its phase, with the delay expired, the gap's end is the step's only rule. -/
theorem gapEnds : Obligations.GapEnds := by
  unfold Obligations.GapEnds
  intro s n hn hphase hdly
  exact exec_next hn (Block.txGap_of_expired hphase hdly)

/-- Settles O40: each half of the break in its own phase, the release once the delay has expired. -/
theorem breakIsAssertedAndReleased : Obligations.BreakIsAssertedAndReleased := by
  unfold Obligations.BreakIsAssertedAndReleased
  intro s n hn
  exact ⟨fun hphase => exec_next hn (Block.txBrkAssert_of_phase hphase),
    fun hphase hdly => exec_next hn (Block.txBrkRelease_of_expired hphase hdly)⟩

/-- Settles O41: an idle transmitter passes the step's only guard. -/
theorem bareBreakStarts : Obligations.BareBreakStarts := by
  unfold Obligations.BareBreakStarts
  intro s n ctx hn hidle
  exact exec_next hn (Block.txSendbreak_of_idle hidle ctx)

/-- Settles O42: under the invariant a running generator keeps its phase, in which neither issuer has a step. -/
theorem delayRunsAndExpires : Obligations.DelayRunsAndExpires := by
  unfold Obligations.DelayRunsAndExpires
  intro s n d hn own
  have hown : own ↔ n.txPhase = delayPhase d := eq_delayPhase_iff.symm
  rw [hown]
  refine ⟨fun hphase hdly => ?_, fun hphase hdly => exec_refused hn (Block.dlyStart_of_running hphase hdly),
    fun hphase => exec_refused hn (Block.dlyStart_of_other_phase hphase),
    fun hdly => exec_next hn (Block.dlyExpire_of_running hdly),
    fun hdly => exec_refused hn (Block.dlyExpire_of_stopped hdly), ?_⟩
  · have hstart := exec_next (i := .dlyStart d) hn (Block.dlyStart_of_stopped hphase hdly)
    have hexpire : Block.perform s.params .dlyExpire { n with dly := some d } = .next n :=
      (Block.dlyExpire_of_running (by simp)).trans (by rw [← hdly])
    exact ⟨hstart, (execAll_cons hstart).trans (execAll_cons (exec_put hexpire))⟩
  · rintro t ⟨-, -, -, hok, -⟩ hstep
    refine Block.dly_eq_none_of_starting hok ?_
    by_contra hphase
    obtain ⟨hbyte, hassert⟩ := not_or.mp hphase
    obtain h | h := hstep
    · cases h.symm.trans (exec_refused hn (Block.txByte_of_other_phase hbyte))
    · cases h.symm.trans (exec_refused hn (Block.txBrkAssert_of_other_phase hassert))

/-- Settles O43: busy is decided first; of each transmit step, the phase and then the delay. -/
theorem transmitStepsOnlyInTheirPhase : Obligations.TransmitStepsOnlyInTheirPhase := by
  unfold Obligations.TransmitStepsOnlyInTheirPhase
  intro s n bytes ctx hn
  refine ⟨fun hphase => ?_, fun h => exec_refused hn (Block.txByte_of_other_phase h),
    fun h => exec_refused hn (Block.txGap_of_other_phase h),
    fun h => exec_refused hn (Block.txBrkAssert_of_other_phase h),
    fun h => exec_refused hn (Block.txBrkRelease_of_other_phase h), fun hdly =>
    ⟨fun h => exec_refused hn (Block.txGap_of_running h hdly),
      fun h => exec_refused hn (Block.txBrkRelease_of_running h hdly)⟩⟩
  have hbusy := Block.txBusy_iff.mpr hphase
  exact ⟨exec_refused hn (if_pos hbusy), exec_refused hn (if_pos hbusy), exec_refused hn (if_pos hbusy)⟩

/-! ## A whole transmission (R233) -/

/-- A transmission in progress in which these bytes are still to be sent, and then the break. -/
abbrev Block.hasToSend (p : Params) (n : Block) (bytes : List Byte) : Prop :=
  n.txPhase = (if bytes = [] then .brkAssert else .byte) ∧ n.txLen = n.txIdx + bytes.length ∧ n.txLen ≤ p.txMaxLen
    ∧ ∀ i < bytes.length, Memory.read? n.txBuf (n.txIdx + i) = bytes[i]?

/-- The unit after one byte and its gap. -/
def Block.afterByte (p : Params) (n : Block) (b : Byte) : Block :=
  { n with
    txd := .released, txIdx := n.txIdx + 1, txPhase := if n.txIdx + 1 < n.txLen then .byte else .brkAssert, dly := none
    out := n.out ++ [.lineChar b], echo := n.echo ++ (if p.lineEcho then [.char b] else []) }

/-- The unit after these bytes and the break. -/
def Block.afterSending (p : Params) (n : Block) (bytes : List Byte) : Block :=
  { n with
    txd := .released, txIdx := n.txIdx + bytes.length, txPhase := .idle, dly := none
    out := n.out ++ bytes.map Output.lineChar ++ [.lineLow, .lineRelease]
      ++ (if n.txLen = 0 then [] else [.ret (.bool true)])
    echo := n.echo ++ (if p.lineEcho then bytes.map LineEvent.char ++ [.brk] else []) }

section Transmission

variable {p : Params} {n : Block}

theorem Block.afterSending_afterByte (b : Byte) (bytes : List Byte) :
    (n.afterByte p b).afterSending p bytes = n.afterSending p (b :: bytes) := by
  cases he : p.lineEcho <;>
    simp [Block.afterSending, Block.afterByte, he, Nat.add_assoc, Nat.add_comm 1]

theorem Block.hasToSend.afterByte {b : Byte} {bytes : List Byte} (h : n.hasToSend p (b :: bytes)) :
    (n.afterByte p b).hasToSend p bytes := by
  obtain ⟨-, hlen, hmax, hread⟩ := h
  rw [List.length_cons] at hlen hread
  refine ⟨?_, ?_, hmax, fun i hi => ?_⟩
  · have hmore : n.txIdx + 1 < n.txLen ↔ bytes ≠ [] := by
      rw [← List.length_pos_iff]
      omega
    simp [Block.afterByte, hmore]
  · simp only [Block.afterByte]
    omega
  · have := hread (i + 1) (by omega)
    simpa [Block.afterByte, Nat.add_assoc, Nat.add_comm 1] using this

theorem Block.hasToSend_loadTx {bytes : List Byte} (hne : bytes ≠ []) (hmax : bytes.length ≤ p.txMaxLen)
    (ctx : Ctx) : (n.loadTx bytes ctx).hasToSend p bytes :=
  ⟨by simp [hne], by simp, hmax, fun i hi => Memory.read?_writeBytes bytes n.txBuf 0 i hi⟩

theorem Block.hasToSend_sendBreak (ctx : Ctx) : (n.sendBreak ctx).hasToSend p [] :=
  ⟨rfl, rfl, Nat.zero_le _, nofun⟩

end Transmission

section Sequence

variable {s : State} {n : Block}

/-- Three operations in a row, each from where the one before has left the unit. -/
theorem execAll_three_put {i j k : Instr} {n₁ n₂ n₃ : Block} (hi : Block.perform s.params i n = .next n₁)
    (hj : Block.perform s.params j n₁ = .next n₂) (hk : Block.perform s.params k n₂ = .next n₃) :
    execAll [i, j, k] (s.put n) = .next (s.put n₃) := by
  rw [execAll_cons (exec_put hi), execAll_cons (exec_put hj), execAll_cons (exec_put hk), execAll]

theorem execAll_breakSteps_put (h : n.hasToSend s.params []) :
    execAll breakSteps (s.put n) = .next (s.put (n.afterSending s.params [])) := by
  obtain ⟨hphase, -⟩ := h
  refine execAll_three_put (Block.txBrkAssert_of_phase hphase) (Block.dlyExpire_of_running (by simp))
    ((Block.txBrkRelease_of_expired rfl rfl).trans (congrArg _ ?_))
  simp [Block.afterSending]

theorem execAll_byteSteps_put {b : Byte} {bytes : List Byte} (h : n.hasToSend s.params (b :: bytes)) :
    execAll byteSteps (s.put n) = .next (s.put (n.afterByte s.params b)) := by
  obtain ⟨hphase, hlen, hmax, hread⟩ := h
  rw [List.length_cons] at hlen
  have hbyte : n.txByte s.params = .next (n.sendChar s.params b) :=
    Block.txByte_of_read hphase (by omega) (hread 0 (by simp))
  rw [Block.sendChar_eq] at hbyte
  exact execAll_three_put hbyte (Block.dlyExpire_of_running (by simp)) (Block.txGap_of_expired rfl rfl)

/-- The sequencer's own steps send what is to be sent, and the break. -/
theorem execAll_sendSteps_put {bytes : List Byte} (h : n.hasToSend s.params bytes) :
    execAll (sendSteps bytes.length) (s.put n) = .next (s.put (n.afterSending s.params bytes)) := by
  induction bytes generalizing n with
  | nil => exact execAll_breakSteps_put h
  | cons b bytes ih =>
    rw [List.length_cons, sendSteps, execAll_append (execAll_byteSteps_put h), ih h.afterByte,
      Block.afterSending_afterByte]

end Sequence

/-- Settles O44: TX.START and TX.SENDBREAK leave what the sequencer then sends, byte by byte, and the break. -/
theorem transmissionOutput : Obligations.TransmissionOutput := by
  unfold Obligations.TransmissionOutput
  intro s n bytes ctx hn hidle
  refine ⟨fun hne hmax => ?_, ?_⟩
  · have hstart := exec_next (i := .txStart bytes ctx) hn (Block.txStart_of_length hidle hne hmax ctx)
    refine ⟨_, (execAll_cons hstart).trans (execAll_sendSteps_put (Block.hasToSend_loadTx hne hmax ctx)), ?_⟩
    simp [Block.afterSending, hne]
  · have hstart := exec_next (i := .txSendbreak ctx) hn (Block.txSendbreak_of_idle hidle ctx)
    refine (execAll_cons hstart).trans ((execAll_sendSteps_put (Block.hasToSend_sendBreak ctx)).trans ?_)
    simp [Block.afterSending, Block.sendBreak]

end Sys2Proof.Machine
end

section
/-! PROOF. The system operations on the addressed unit; the units are independent: what an operation touches, that no
step changes the parameters, and that nothing happens at a unit that does not exist. -/

namespace Sys2Proof.Machine

/-! ## The system operations (45_system_ops R250 to R254) -/

theorem Block.resync_of_idle {n : Block} (hidle : n.txPhase = .idle) (ctx : Ctx) :
    n.resync ctx = .next (n.resyncNow ctx) :=
  if_neg (Block.not_txBusy_iff.mpr hidle)

/-- Settles O47: none of the three has a guard. -/
theorem setUpOperations : Obligations.SetUpOperations := by
  unfold Obligations.SetUpOperations
  intro s n f hn
  exact ⟨exec_next hn rfl, exec_next hn rfl, exec_next hn rfl⟩

/-- Settles O46: the flush has no guard, and an idle transmitter passes the only guard of RESYNC. -/
theorem flushAndResync : Obligations.FlushAndResync := by
  unfold Obligations.FlushAndResync
  intro s n hn
  exact ⟨exec_next hn rfl, fun ctx hidle => exec_next hn (Block.resync_of_idle hidle ctx)⟩

/-! ## One unit at a time (R255) -/

theorem State.unit?_put_self (s : State) (n : Block) : (s.put n).unit? s.cur = some n := by
  simpa only [State.here?, State.put_cur] using State.here?_put s n

/-! ## A unit that does not exist (log 15) -/

theorem exec_of_no_unit {s : State} (h : s.here? = none) (i : Instr) : exec i s = .refused .noSuchUnit := by
  rw [exec_eq_onHere, State.onHere, h]

theorem fetchLevel_of_no_unit {s : State} (h : s.here? = none) (high : Bool) :
    fetchLevel high s = .refused .noSuchUnit := by
  rw [fetchLevel, h]

theorem fetchEcho_of_no_unit {s : State} (h : s.here? = none) : fetchEcho s = .refused .noSuchUnit := by
  rw [fetchEcho, h]

/-! ## No step changes the parameters (10_state R34) -/

/-- What is fetched leaves the machine with these parameters. -/
def Fetched.HasParams (p : Params) : Fetched → Prop
  | .only s | .run _ s => s.params = p
  | .idle | .refused _ => True

theorem fetchError_hasParams (n : Block) (s : State) : (fetchError n s).HasParams s.params := by
  obtain ⟨cs, d, h | ⟨b, h⟩⟩ := fetchError_cases n s <;> rw [h] <;> exact s.put_params _

theorem fetchLevel_hasParams (high : Bool) (s : State) : (fetchLevel high s).HasParams s.params := by
  cases hn : s.here? with
  | none =>
    rw [fetchLevel_of_no_unit hn]
    trivial
  | some n =>
    cases hs : (n.hidden.sample high).2 with
    | nothing =>
      rw [fetchLevel_of_nothing hn hs]
      exact s.put_params _
    | char b =>
      rw [fetchLevel_of_char hn hs]
      exact s.put_params _
    | brk k =>
      rw [fetchLevel_of_brk hn hs]
      exact s.put_params _
    | error =>
      rw [fetchLevel_of_error hn hs]
      exact fetchError_hasParams _ s

theorem fetchEcho_hasParams (s : State) : (fetchEcho s).HasParams s.params := by
  unfold fetchEcho
  split
  · trivial
  · split
    · trivial
    · exact s.put_params _
    · exact s.put_params _

theorem fetchCode_hasParams (c : Code) (s : State) : (fetchCode c s).HasParams s.params := by
  unfold fetchCode
  split
  · exact fetchLevel_hasParams _ s
  · exact fetchEcho_hasParams s
  · split
    · trivial
    · rfl

theorem State.pickTurn_params (s : State) (k : Nat) : (s.pickTurn k).2.params = s.params := by
  unfold State.pickTurn
  split
  · rfl
  · split <;> rfl

theorem fetchOwn_hasParams (s : State) : (fetchOwn s).HasParams s.params := by
  unfold fetchOwn
  split
  · trivial
  · rw [← s.pickTurn_params s.moves.length]
    exact fetchCode_hasParams _ { (s.pickTurn s.moves.length).2 with cur := _ }

theorem fetch_hasParams (s : State) : s.fetch.HasParams s.params := by
  unfold State.fetch
  split
  · exact fetchOwn_hasParams s
  · rename_i e es _
    exact fetchCode_hasParams e.code { s with inbox := es, cur := e.dest }

theorem exec_params {i : Instr} {s t : State} (h : exec i s = .next t) : t.params = s.params := by
  obtain ⟨-, m, -, -, rfl⟩ := exec_cases h
  exact s.put_params m

theorem step_params {s t : State} (h : step s = .next t) : t.params = s.params := by
  have hfetch := fetch_hasParams s
  obtain ⟨-, rfl⟩ | honly | ⟨i, s', hrun, hexec⟩ := step_cases h
  · rfl
  · rw [honly] at hfetch
    exact hfetch
  · rw [hrun] at hfetch
    exact (exec_params hexec).trans hfetch

/-- Settles O49: an operation is its effect on the addressed unit, put back there, and without that unit neither an
operation nor what the line presents has anything to act on. -/
theorem unitsAreIndependent : Obligations.UnitsAreIndependent := by
  unfold Obligations.UnitsAreIndependent
  refine ⟨fun s t i h => ?_, fun s s' n m i hn hn' hparams h => ?_, fun s t => step_params,
    fun s i hn => exec_of_no_unit hn i, fun s id c es hnone hin hc => ?_⟩
  · obtain ⟨-, m, -, -, rfl⟩ := exec_cases h
    exact ⟨m, rfl, s.unit?_put_self m, s.unit?_put_of_ne m, s.put_params m, s.put_cur m, s.put_inbox m, s.put_turns m,
      s.put_turn m⟩
  · exact exec_next hn' (hparams ▸ perform_of_exec hn h (s.here?_put m))
  · have hfetch : s.fetch = fetchCode c { s with cur := id, inbox := es } := fetch_of_inbox_cons hin
    have hhere : State.here? { s with cur := id, inbox := es } = none := hnone
    obtain ⟨i, hi⟩ | ⟨high, rfl⟩ | rfl := hc
    · rw [step_of_fetch_run (hfetch.trans (fetchCode_of_decode_ok hi _)), exec_of_no_unit hhere]
    · exact step_of_fetch_refused (hfetch.trans (fetchLevel_of_no_unit hhere high))
    · exact step_of_fetch_refused (hfetch.trans (fetchEcho_of_no_unit hhere))

end Sys2Proof.Machine
end

section
/-! PROOF. Operands outside their range; that no operation faults under the invariant, and that the block by itself
always has a next step, but for the quiet timeout during a transmission of another context. -/

namespace Sys2Proof.Machine

/-! ## Operands outside their range (60_exceptions R274) -/

/-- FX.U and FX.S extract fields of one to four bytes (42_fields R181, R182). -/
theorem exec_fxU_fxS_of_bad_width {s : State} {n : Block} (hn : s.here? = some n) (t : Telegram) (pos : Nat) {w : Nat}
    (hw : w = 0 ∨ 4 < w) :
    exec (.fxU t pos w) s = .refused .operandRange ∧ exec (.fxS t pos w) s = .refused .operandRange :=
  ⟨exec_refused hn (if_pos hw), exec_refused hn (if_pos hw)⟩

/-- Settles O21: the operand check is the first guard of each operation, and the second of CRC8.CHK. -/
theorem operandRangeRefusals : Obligations.OperandRangeRefusals := by
  unfold Obligations.OperandRangeRefusals
  intro s n t pos w p len raw hn
  obtain ⟨hU0, hS0⟩ := exec_fxU_fxS_of_bad_width hn t pos (.inl rfl)
  exact ⟨fun hwide => exec_fxU_fxS_of_bad_width hn t pos (.inr hwide), hU0, hS0, exec_refused hn rfl,
    fun hbit => exec_refused hn (if_pos hbit), fun hlen => exec_refused hn (if_pos hlen),
    fun hlen hpos => exec_refused hn ((if_neg hpos).trans (if_pos hlen)),
    fun hshort => exec_refused hn (if_pos hshort)⟩

/-! ## What can fault -/

section Faults

variable {p : Params} {n : Block} {e : Fault}

/-- A guard refuses and never faults. -/
theorem Block.guard_fault {c : Prop} [Decidable c] {r : Refusal} {o : Host.Outcome Block Fault Refusal}
    (h : (if c then .refused r else o) = .fault e) : o = .fault e := by
  split at h
  · cases h
  · exact h

theorem Block.handleTimeout_ne_fault : n.handleTimeout ≠ .fault e := fun h => nomatch Block.guard_fault h

theorem Block.waitQuiet_ne_fault : n.waitQuiet ≠ .fault e := by
  obtain ⟨cs, d, h | h⟩ := n.waitQuiet_cases
  · exact h ▸ nofun
  · exact h ▸ Block.handleTimeout_ne_fault

theorem Block.rxWait_ne_fault : n.rxWait p ≠ .fault e := by
  intro h
  have h := Block.guard_fault h
  split at h
  · exact Block.waitQuiet_ne_fault h
  · cases h

/-- Of all operations only TX.BYTE can fault. -/
theorem Block.eq_txByte_of_perform_fault {i : Instr} (h : Block.perform p i n = .fault e) : i = .txByte := by
  cases i with
  | txByte => rfl
  | rxWait => exact absurd h Block.rxWait_ne_fault
  | rxEvTimeout => exact absurd (Block.guard_fault (Block.guard_fault h)) Block.handleTimeout_ne_fault
  | crc8Chk | rxEvRingovf | rxEvQfull | cbReturn | txGap | txBrkRelease | dlyStart =>
    exact nomatch Block.guard_fault (Block.guard_fault h)
  | decode | decXrd | decXwr | decLeg | decTooshort | encLegRd | encLegWr | encXRd | encXWr | fxLocate | fxU | fxS
  | fxBit | rxEvData | rxEvBreak | rxDeliver | txStart | txBrkAssert | txSendbreak | dlyExpire | resync | brk =>
    exact nomatch Block.guard_fault h
  | _ => cases h

/-- Under the invariant the byte to be sent lies inside `TXBUF` (20_memory R60). -/
theorem Block.TxInv.txByte_completes (hn : n.TxInv p) (hbyte : n.txPhase = .byte) : ∃ m, n.txByte p = .next m := by
  obtain ⟨⟨-, -, hlen, -, hsending, -⟩, -⟩ := hn
  have hidx : n.txIdx < p.txMaxLen := Nat.lt_of_lt_of_le (hsending (.inl hbyte)) hlen
  cases hread : Memory.read? n.txBuf n.txIdx with
  | some b => exact ⟨_, Block.txByte_of_read hbyte hidx hread⟩
  | none => exact ⟨_, Block.txByte_of_unwritten hbyte hidx hread⟩

theorem Block.TxInv.perform_ne_fault (hn : n.TxInv p) (i : Instr) : Block.perform p i n ≠ .fault e := by
  intro h
  obtain rfl := Block.eq_txByte_of_perform_fault h
  by_cases hbyte : n.txPhase = .byte
  · obtain ⟨m, hm⟩ := hn.txByte_completes hbyte
    cases hm.symm.trans h
  · cases (Block.txByte_of_other_phase hbyte).symm.trans h

end Faults

/-- No operation faults on a machine whose units keep their invariant. -/
theorem State.UnitsInv.exec_ne_fault {s : State} (hs : s.UnitsInv) (i : Instr) (e : Fault) :
    Machine.exec i s ≠ .fault e := by
  cases hn : s.here? with
  | none => exact exec_of_no_unit hn i ▸ nofun
  | some n =>
    obtain ⟨-, htx⟩ := hs.1 s.cur n hn
    cases hp : Block.perform s.params i n with
    | next m => exact exec_next hn hp ▸ nofun
    | refused r => exact exec_refused hn hp ▸ nofun
    | fault e' => exact absurd hp (htx.perform_ne_fault i)

/-! ## The block by itself -/

section Progress

variable {p : Params} {n : Block}

/-- The wait of a free loop context that can end in the refused timeout: nothing is pending, and a transmission of
another context runs (45_system_ops R253, log 13). -/
abbrev Block.quietWhileSending (n : Block) : Prop :=
  n.loopFree = true ∧ n.nothingPending = true ∧ n.txPhase ≠ .idle

/-- The wait of a free loop context completes, but for the refused timeout. -/
theorem Block.rxWait_completes_or_busy (hfree : n.loopFree = true) :
    (∃ m, n.rxWait p = .next m) ∨ (n.rxWait p = .refused .txBusy ∧ n.quietWhileSending) := by
  cases hquiet : n.nothingPending with
  | false => exact .inl ⟨_, Block.rxWait_of_pending hfree hquiet⟩
  | true =>
    rw [Block.rxWait_of_quiet hfree hquiet]
    obtain ⟨cs, d, h | h⟩ := Block.waitQuiet_cases { n with quiet := .waiting }
    · exact .inl ⟨_, h⟩
    · obtain ⟨-, htimeout⟩ | ⟨hbusy, htimeout⟩ :=
        Block.handleTimeout_cases { n with quiet := .waiting, choices := cs, drawn := d }
      · exact .inl ⟨_, h.trans htimeout⟩
      · exact .inr ⟨h.trans htimeout, hfree, hquiet, hbusy⟩

/-- Under the invariant a move of the transmit sequencer is an operation that completes. -/
theorem Block.TxInv.txMove_completes (hn : n.TxInv p) {c : Code} (hc : c ∈ n.txMoves) :
    ∃ i m, Sys2Proof.decode c = .ok i ∧ Block.perform p i n = .next m := by
  obtain ⟨rfl, hbyte⟩ | ⟨rfl, hgap, hdly⟩ | ⟨rfl, hassert⟩ | ⟨rfl, hhold, hdly⟩ := Block.mem_txMoves.mp hc
  · obtain ⟨m, hm⟩ := hn.txByte_completes hbyte
    exact ⟨.txByte, m, rfl, hm⟩
  · exact ⟨.txGap, _, rfl, Block.txGap_of_expired hgap hdly⟩
  · exact ⟨.txBrkAssert, _, rfl, Block.txBrkAssert_of_phase hassert⟩
  · exact ⟨.txBrkRelease, _, rfl, Block.txBrkRelease_of_expired hhold hdly⟩

theorem Block.delayMove_completes {c : Code} (hc : c ∈ n.delayMoves) :
    ∃ i m, Sys2Proof.decode c = .ok i ∧ Block.perform p i n = .next m := by
  obtain ⟨rfl, hdly⟩ := Block.mem_delayMoves.mp hc
  exact ⟨.dlyExpire, _, rfl, Block.dlyExpire_of_running hdly⟩

end Progress

section Moves

variable {s : State} {n : Block} {id : UnitId} {es : List Entry} (hn : s.unit? id = some n)
include hn

/-- The step that performs what decodes is the operation on the unit it is addressed to. -/
theorem step_next_of_perform {c : Code} (hin : s.inbox = { dest := id, code := c } :: es) {i : Instr} {m : Block}
    (hi : decode c = .ok i) (hp : Block.perform s.params i n = .next m) : ∃ t, step s = .next t :=
  ⟨_, ((stepRunsTheDecodedOperation s id c es hin).1 i hi).trans (exec_next hn hp)⟩

/-- An echo in flight is received in every state (R75). -/
theorem step_next_of_echo (hin : s.inbox = { dest := id, code := .echo } :: es) (he : n.echo ≠ []) :
    ∃ t, step s = .next t := by
  obtain ⟨hchar, hbrk, -⟩ := echoIsReceivedInOrder s n id es hn hin
  obtain ⟨ev, rest, hecho⟩ := List.exists_cons_of_ne_nil he
  cases ev with
  | char b => exact ⟨_, (hchar b rest hecho).trans (exec_put rfl)⟩
  | brk => exact ⟨_, (hbrk rest hecho).trans (exec_put rfl)⟩

theorem step_next_or_busy_of_rxWait (hin : s.inbox = { dest := id, code := .op [0x32] } :: es)
    (hfree : n.loopFree = true) :
    (∃ t, step s = .next t) ∨ (step s = .refused .txBusy ∧ n.quietWhileSending) := by
  obtain ⟨m, hm⟩ | ⟨href, hquiet⟩ := Block.rxWait_completes_or_busy (p := s.params) hfree
  · exact .inl (step_next_of_perform hn hin (i := .rxWait) rfl hm)
  · refine .inr ⟨?_, hquiet⟩
    exact ((stepRunsTheDecodedOperation s id _ es hin).1 .rxWait rfl).trans (exec_refused hn href)

/-- A move of the block's own agents is a step that completes, but for the refused timeout. -/
theorem step_next_or_busy_of_move (htx : n.TxInv s.params) {c : Code} (hin : s.inbox = { dest := id, code := c } :: es)
    (hc : c ∈ n.txMoves ∨ c ∈ n.delayMoves ∨ c ∈ n.loopMoves ∨ c ∈ n.echoMoves) :
    (∃ t, step s = .next t) ∨ (step s = .refused .txBusy ∧ n.quietWhileSending) := by
  obtain htxMove | hdelay | hloop | hecho := hc
  · obtain ⟨i, m, hi, hm⟩ := htx.txMove_completes htxMove
    exact .inl (step_next_of_perform hn hin hi hm)
  · obtain ⟨i, m, hi, hm⟩ := Block.delayMove_completes hdelay
    exact .inl (step_next_of_perform hn hin hi hm)
  · obtain ⟨rfl, hfree⟩ := Block.mem_loopMoves.mp hloop
    exact step_next_or_busy_of_rxWait hn hin hfree
  · obtain ⟨rfl, he⟩ := Block.mem_echoMoves.mp hecho
    exact .inl (step_next_of_echo hn hin he)

end Moves

/-- With nothing issued a step completes, but for the refused timeout of one of the units. -/
theorem State.UnitsInv.own_step_next_or_busy {s : State} (hs : s.UnitsInv) (hin : s.inbox = []) :
    (∃ t, step s = .next t)
      ∨ (step s = .refused .txBusy ∧ ∃ id n, s.unit? id = some n ∧ n.quietWhileSending) := by
  by_cases hm : s.moves = []
  · exact .inl ⟨s, step_of_moves_nil hin hm⟩
  · obtain ⟨⟨id, c⟩, he, ts, k, hstep⟩ := step_takes_a_move hin hm
    obtain ⟨n, hn, hmove⟩ := State.mem_moves.mp he
    obtain ⟨-, hc⟩ := Block.mem_moves.mp hmove
    obtain ⟨-, htx⟩ := hs.1 id n hn
    rw [hstep]
    exact (step_next_or_busy_of_move (s := { s with inbox := [⟨id, c⟩], turns := ts, turn := k }) hn htx rfl
      hc).imp_right fun ⟨href, hquiet⟩ => ⟨href, id, n, hn, hquiet⟩

theorem Block.quietWhileSending_iff {n : Block} : n.quietWhileSending ↔ n.listening = true ∧ n.inCallback = false
    ∧ n.txCtx = .ext ∧ n.txPhase ≠ .idle ∧ n.evq = [] ∧ n.condRing = false ∧ n.condQueue = false := by
  rw [Block.quietWhileSending, Block.loopFree_iff, Block.nothingPending_iff]
  constructor
  · rintro ⟨⟨hlisten, hcb, hctx⟩, hquiet, hbusy⟩
    refine ⟨hlisten, hcb, ?_, hbusy, hquiet⟩
    cases h : n.txCtx with
    | ext => rfl
    | loop => exact absurd (hctx h) hbusy
  · rintro ⟨hlisten, hcb, hctx, hbusy, hquiet⟩
    exact ⟨⟨hlisten, hcb, by simp [hctx]⟩, hquiet, hbusy⟩

/-- Settles O56: only TX.BYTE can fault, and its index is kept inside `TXBUF`; every move of the block's own completes
but for the refused timeout. -/
theorem nothingIsFatal : Obligations.NothingIsFatal := by
  unfold Obligations.NothingIsFatal
  intro s hs
  obtain ⟨hunits, -⟩ := State.inv_iff.mp hs
  refine ⟨hunits.exec_ne_fault, fun hin => (hunits.own_step_next_or_busy hin).imp_right ?_⟩
  rintro ⟨href, id, n, hn, hquiet⟩
  exact ⟨href, id, n, hn, Block.quietWhileSending_iff.mp hquiet⟩

end Sys2Proof.Machine
end

section
/-! PROOF. Power-on reset: a reset unit is one that was powered on, but for what is not the block's own, and the machine
as it is powered on is what RESET leads back to. -/

namespace Sys2Proof.Machine

/-- A unit just powered on is as RESET leaves it (70_reset_and_hazards R301). -/
@[simp] theorem Block.reset_powerOn (p : Params) (u : UnitId) : (Block.powerOn p u).reset p = Block.powerOn p u := rfl

/-- Two units stand in the machine exactly when the forwarding parameter is set (45_system_ops R255, D34). -/
theorem nInst_eq_two_iff {p : Params} : p.nInst = 2 ↔ p.forwarding = true := by
  simp [Params.nInst]

theorem State.reset_second_isSome_iff : State.reset.second.isSome = true ↔ Config.params.forwarding = true := by
  simp [State.reset, apply_ite]

/-- RESET at power-on changes nothing: the addressed unit is the first one, just powered on (10_state R39). -/
theorem exec_reset_reset : exec .reset State.reset = .next State.reset :=
  exec_next (n := State.reset.first) rfl (congrArg _ (Block.reset_powerOn Config.params .first))

/-- Settles O48: RESET has no guard and puts every field of `Block.powerOn` in place, whose arrays are empty; at
power-on it changes nothing. -/
theorem resetRestoresPowerOn : Obligations.ResetRestoresPowerOn := by
  unfold Obligations.ResetRestoresPowerOn
  refine ⟨fun s n hn => ⟨n.reset s.params, exec_next hn rfl, ?_⟩, exec_reset_reset, rfl, rfl, rfl, rfl,
    State.reset_second_isSome_iff.trans nInst_eq_two_iff.symm⟩
  simp [Block.reset, Block.powerOn, Hidden.idle]

end Sys2Proof.Machine
end
